-- ==== Sys2Proof/Word.lean ====
section
/-! DEFINITION. The word, byte and register-number types (spec/00_scope.md R9, spec/10_state.md R20). -/

namespace Sys2Proof

/-- A 64-bit register value or program word (R9, R70). -/
abbrev Word := BitVec 64

/-- One byte of data memory (R50). -/
abbrev Byte := BitVec 8

/-- A register number: the 4-bit `dst` and `src` fields name every one of the 16 registers (R20). -/
abbrev Reg := Fin 16

end Sys2Proof
end

