-- ==== Sys2Proof/Config.lean ====
section
/-! DEFINITION. What the spec leaves to the implementation or the host: the default values of the named
parameters (spec/00_scope.md R7) and the one free value, the initial stack contents (spec/70_reset_and_hazards.md R271). -/

namespace Sys2Proof.Config

/-- The number of byte addresses of the data space (R50). -/
def addressSpace : Nat := 2 ^ 64

/-- STACK_SIZE: "512 by default" (R7, R51). -/
def stackSize : Nat := 512

/-- STACK_BASE is an open parameter of the host (D6). DESIGN CHOICE (log 6): the reset state takes the value
the spec's test vectors use. -/
def stackBase : Nat := 0x1000

/-- CTX is an opaque value of the host (R52). DESIGN CHOICE (log 6): the reset state takes 0. -/
def ctx : Word := 0

/-- FREE VALUE (R271, D7, log 7, log 8). The byte that draw number `n` of the initial contents puts at address `a`.
It has no body: no proof and no evaluation can see a value of it. -/
opaque initByte : (n : Nat) → (a : Nat) → Byte

end Sys2Proof.Config
end

