-- ==== Sys2Proof/Syntax.lean ====
section
/-! DEFINITION. The instruction set: one constructor for each row of spec/opcode_table.json, in a readable order.
`K` marks an immediate source operand and `X` a register source operand (R75). Fields an instruction does not use
(R87) are not fields of its constructor. -/

namespace Sys2Proof

/-- An instruction of the execution core. -/
inductive Instr where
  -- ALU, class 4 (spec/40_alu.md)
  /-- `add32 dst, imm` (R106). -/
  | add32K (dst : Reg) (imm : BitVec 32)
  /-- `add32 dst, src` (R106). -/
  | add32X (dst : Reg) (src : Reg)
  /-- `sub32 dst, imm` (R108). -/
  | sub32K (dst : Reg) (imm : BitVec 32)
  /-- `sub32 dst, src` (R108). -/
  | sub32X (dst : Reg) (src : Reg)
  /-- `mul32 dst, imm` (R110). -/
  | mul32K (dst : Reg) (imm : BitVec 32)
  /-- `mul32 dst, src` (R110). -/
  | mul32X (dst : Reg) (src : Reg)
  /-- `div32 dst, imm` (R112). -/
  | div32K (dst : Reg) (imm : BitVec 32)
  /-- `div32 dst, src` (R112). -/
  | div32X (dst : Reg) (src : Reg)
  /-- `or32 dst, imm` (R114). -/
  | or32K (dst : Reg) (imm : BitVec 32)
  /-- `or32 dst, src` (R114). -/
  | or32X (dst : Reg) (src : Reg)
  /-- `and32 dst, imm` (R116). -/
  | and32K (dst : Reg) (imm : BitVec 32)
  /-- `and32 dst, src` (R116). -/
  | and32X (dst : Reg) (src : Reg)
  /-- `lsh32 dst, imm` (R118). -/
  | lsh32K (dst : Reg) (imm : BitVec 32)
  /-- `lsh32 dst, src` (R118). -/
  | lsh32X (dst : Reg) (src : Reg)
  /-- `rsh32 dst, imm` (R120). -/
  | rsh32K (dst : Reg) (imm : BitVec 32)
  /-- `rsh32 dst, src` (R120). -/
  | rsh32X (dst : Reg) (src : Reg)
  /-- `neg32 dst` (R122). -/
  | neg32 (dst : Reg)
  /-- `mod32 dst, imm` (R124). -/
  | mod32K (dst : Reg) (imm : BitVec 32)
  /-- `mod32 dst, src` (R124). -/
  | mod32X (dst : Reg) (src : Reg)
  /-- `xor32 dst, imm` (R126). -/
  | xor32K (dst : Reg) (imm : BitVec 32)
  /-- `xor32 dst, src` (R126). -/
  | xor32X (dst : Reg) (src : Reg)
  /-- `mov32 dst, imm` (R128). -/
  | mov32K (dst : Reg) (imm : BitVec 32)
  /-- `mov32 dst, src` (R128). -/
  | mov32X (dst : Reg) (src : Reg)
  /-- `arsh32 dst, imm` (R130). -/
  | arsh32K (dst : Reg) (imm : BitVec 32)
  /-- `arsh32 dst, src` (R130). -/
  | arsh32X (dst : Reg) (src : Reg)
  -- ALU64, class 7 (spec/40_alu.md)
  /-- `add dst, imm` (R107). -/
  | addK (dst : Reg) (imm : BitVec 32)
  /-- `add dst, src` (R107). -/
  | addX (dst : Reg) (src : Reg)
  /-- `sub dst, imm` (R109). -/
  | subK (dst : Reg) (imm : BitVec 32)
  /-- `sub dst, src` (R109). -/
  | subX (dst : Reg) (src : Reg)
  /-- `mul dst, imm` (R111). -/
  | mulK (dst : Reg) (imm : BitVec 32)
  /-- `mul dst, src` (R111). -/
  | mulX (dst : Reg) (src : Reg)
  /-- `div dst, imm` (R113). -/
  | divK (dst : Reg) (imm : BitVec 32)
  /-- `div dst, src` (R113). -/
  | divX (dst : Reg) (src : Reg)
  /-- `or dst, imm` (R115). -/
  | orK (dst : Reg) (imm : BitVec 32)
  /-- `or dst, src` (R115). -/
  | orX (dst : Reg) (src : Reg)
  /-- `and dst, imm` (R117). -/
  | andK (dst : Reg) (imm : BitVec 32)
  /-- `and dst, src` (R117). -/
  | andX (dst : Reg) (src : Reg)
  /-- `lsh dst, imm` (R119). -/
  | lshK (dst : Reg) (imm : BitVec 32)
  /-- `lsh dst, src` (R119). -/
  | lshX (dst : Reg) (src : Reg)
  /-- `rsh dst, imm` (R121). -/
  | rshK (dst : Reg) (imm : BitVec 32)
  /-- `rsh dst, src` (R121). -/
  | rshX (dst : Reg) (src : Reg)
  /-- `neg dst` (R123). -/
  | neg (dst : Reg)
  /-- `mod dst, imm` (R125). -/
  | modK (dst : Reg) (imm : BitVec 32)
  /-- `mod dst, src` (R125). -/
  | modX (dst : Reg) (src : Reg)
  /-- `xor dst, imm` (R127). -/
  | xorK (dst : Reg) (imm : BitVec 32)
  /-- `xor dst, src` (R127). -/
  | xorX (dst : Reg) (src : Reg)
  /-- `mov dst, imm` (R129). -/
  | movK (dst : Reg) (imm : BitVec 32)
  /-- `mov dst, src` (R129). -/
  | movX (dst : Reg) (src : Reg)
  /-- `arsh dst, imm` (R131). -/
  | arshK (dst : Reg) (imm : BitVec 32)
  /-- `arsh dst, src` (R131). -/
  | arshX (dst : Reg) (src : Reg)
  -- END, byte-order conversion (spec/40_alu.md R132 to R135)
  /-- `le16 dst` (R133). -/
  | le16 (dst : Reg)
  /-- `le32 dst` (R133). -/
  | le32 (dst : Reg)
  /-- `le64 dst` (R133). -/
  | le64 (dst : Reg)
  /-- `be16 dst` (R134). -/
  | be16 (dst : Reg)
  /-- `be32 dst` (R134). -/
  | be32 (dst : Reg)
  /-- `be64 dst` (R134). -/
  | be64 (dst : Reg)
  /-- `le16_alu64 dst` (R135). -/
  | le16Alu64 (dst : Reg)
  /-- `le32_alu64 dst` (R135). -/
  | le32Alu64 (dst : Reg)
  /-- `le64_alu64 dst` (R135). -/
  | le64Alu64 (dst : Reg)
  /-- `be16_alu64 dst` (R135). -/
  | be16Alu64 (dst : Reg)
  /-- `be32_alu64 dst` (R135). -/
  | be32Alu64 (dst : Reg)
  /-- `be64_alu64 dst` (R135). -/
  | be64Alu64 (dst : Reg)
  -- JMP, class 5 (spec/41_jump.md)
  /-- `ja +off` (R164). -/
  | ja (off : BitVec 16)
  /-- `jeq dst, imm, +off` (R165). -/
  | jeqK (dst : Reg) (imm : BitVec 32) (off : BitVec 16)
  /-- `jeq dst, src, +off` (R165). -/
  | jeqX (dst : Reg) (src : Reg) (off : BitVec 16)
  /-- `jgt dst, imm, +off` (R167). -/
  | jgtK (dst : Reg) (imm : BitVec 32) (off : BitVec 16)
  /-- `jgt dst, src, +off` (R167). -/
  | jgtX (dst : Reg) (src : Reg) (off : BitVec 16)
  /-- `jge dst, imm, +off` (R169). -/
  | jgeK (dst : Reg) (imm : BitVec 32) (off : BitVec 16)
  /-- `jge dst, src, +off` (R169). -/
  | jgeX (dst : Reg) (src : Reg) (off : BitVec 16)
  /-- `jset dst, imm, +off` (R171). -/
  | jsetK (dst : Reg) (imm : BitVec 32) (off : BitVec 16)
  /-- `jset dst, src, +off` (R171). -/
  | jsetX (dst : Reg) (src : Reg) (off : BitVec 16)
  /-- `jne dst, imm, +off` (R173). -/
  | jneK (dst : Reg) (imm : BitVec 32) (off : BitVec 16)
  /-- `jne dst, src, +off` (R173). -/
  | jneX (dst : Reg) (src : Reg) (off : BitVec 16)
  /-- `jsgt dst, imm, +off` (R175). -/
  | jsgtK (dst : Reg) (imm : BitVec 32) (off : BitVec 16)
  /-- `jsgt dst, src, +off` (R175). -/
  | jsgtX (dst : Reg) (src : Reg) (off : BitVec 16)
  /-- `jsge dst, imm, +off` (R177). -/
  | jsgeK (dst : Reg) (imm : BitVec 32) (off : BitVec 16)
  /-- `jsge dst, src, +off` (R177). -/
  | jsgeX (dst : Reg) (src : Reg) (off : BitVec 16)
  /-- `jlt dst, imm, +off` (R179). -/
  | jltK (dst : Reg) (imm : BitVec 32) (off : BitVec 16)
  /-- `jlt dst, src, +off` (R179). -/
  | jltX (dst : Reg) (src : Reg) (off : BitVec 16)
  /-- `jle dst, imm, +off` (R181). -/
  | jleK (dst : Reg) (imm : BitVec 32) (off : BitVec 16)
  /-- `jle dst, src, +off` (R181). -/
  | jleX (dst : Reg) (src : Reg) (off : BitVec 16)
  /-- `jslt dst, imm, +off` (R183). -/
  | jsltK (dst : Reg) (imm : BitVec 32) (off : BitVec 16)
  /-- `jslt dst, src, +off` (R183). -/
  | jsltX (dst : Reg) (src : Reg) (off : BitVec 16)
  /-- `jsle dst, imm, +off` (R185). -/
  | jsleK (dst : Reg) (imm : BitVec 32) (off : BitVec 16)
  /-- `jsle dst, src, +off` (R185). -/
  | jsleX (dst : Reg) (src : Reg) (off : BitVec 16)
  -- JMP32, class 6 (spec/41_jump.md)
  /-- `jeq32 dst, imm, +off` (R166). -/
  | jeq32K (dst : Reg) (imm : BitVec 32) (off : BitVec 16)
  /-- `jeq32 dst, src, +off` (R166). -/
  | jeq32X (dst : Reg) (src : Reg) (off : BitVec 16)
  /-- `jgt32 dst, imm, +off` (R168). -/
  | jgt32K (dst : Reg) (imm : BitVec 32) (off : BitVec 16)
  /-- `jgt32 dst, src, +off` (R168). -/
  | jgt32X (dst : Reg) (src : Reg) (off : BitVec 16)
  /-- `jge32 dst, imm, +off` (R170). -/
  | jge32K (dst : Reg) (imm : BitVec 32) (off : BitVec 16)
  /-- `jge32 dst, src, +off` (R170). -/
  | jge32X (dst : Reg) (src : Reg) (off : BitVec 16)
  /-- `jset32 dst, imm, +off` (R172). -/
  | jset32K (dst : Reg) (imm : BitVec 32) (off : BitVec 16)
  /-- `jset32 dst, src, +off` (R172). -/
  | jset32X (dst : Reg) (src : Reg) (off : BitVec 16)
  /-- `jne32 dst, imm, +off` (R174). -/
  | jne32K (dst : Reg) (imm : BitVec 32) (off : BitVec 16)
  /-- `jne32 dst, src, +off` (R174). -/
  | jne32X (dst : Reg) (src : Reg) (off : BitVec 16)
  /-- `jsgt32 dst, imm, +off` (R176). -/
  | jsgt32K (dst : Reg) (imm : BitVec 32) (off : BitVec 16)
  /-- `jsgt32 dst, src, +off` (R176). -/
  | jsgt32X (dst : Reg) (src : Reg) (off : BitVec 16)
  /-- `jsge32 dst, imm, +off` (R178). -/
  | jsge32K (dst : Reg) (imm : BitVec 32) (off : BitVec 16)
  /-- `jsge32 dst, src, +off` (R178). -/
  | jsge32X (dst : Reg) (src : Reg) (off : BitVec 16)
  /-- `jlt32 dst, imm, +off` (R180). -/
  | jlt32K (dst : Reg) (imm : BitVec 32) (off : BitVec 16)
  /-- `jlt32 dst, src, +off` (R180). -/
  | jlt32X (dst : Reg) (src : Reg) (off : BitVec 16)
  /-- `jle32 dst, imm, +off` (R182). -/
  | jle32K (dst : Reg) (imm : BitVec 32) (off : BitVec 16)
  /-- `jle32 dst, src, +off` (R182). -/
  | jle32X (dst : Reg) (src : Reg) (off : BitVec 16)
  /-- `jslt32 dst, imm, +off` (R184). -/
  | jslt32K (dst : Reg) (imm : BitVec 32) (off : BitVec 16)
  /-- `jslt32 dst, src, +off` (R184). -/
  | jslt32X (dst : Reg) (src : Reg) (off : BitVec 16)
  /-- `jsle32 dst, imm, +off` (R186). -/
  | jsle32K (dst : Reg) (imm : BitVec 32) (off : BitVec 16)
  /-- `jsle32 dst, src, +off` (R186). -/
  | jsle32X (dst : Reg) (src : Reg) (off : BitVec 16)
  -- CALL (spec/43_helper_call.md)
  /-- `call imm` (R230). -/
  | call (imm : BitVec 32)
  -- JMP, class 5 (spec/41_jump.md)
  /-- `exit` (R187). -/
  | exit
  -- Loads and stores (spec/42_load_store.md)
  /-- `lddw dst, imm64` (R200). -/
  | lddw (dst : Reg) (imm64 : BitVec 64)
  /-- `ldxw dst, [src+off]` (R202). -/
  | ldxw (dst : Reg) (src : Reg) (off : BitVec 16)
  /-- `ldxh dst, [src+off]` (R203). -/
  | ldxh (dst : Reg) (src : Reg) (off : BitVec 16)
  /-- `ldxb dst, [src+off]` (R204). -/
  | ldxb (dst : Reg) (src : Reg) (off : BitVec 16)
  /-- `ldxdw dst, [src+off]` (R205). -/
  | ldxdw (dst : Reg) (src : Reg) (off : BitVec 16)
  /-- `stw [dst+off], imm` (R207). -/
  | stw (dst : Reg) (off : BitVec 16) (imm : BitVec 32)
  /-- `sth [dst+off], imm` (R208). -/
  | sth (dst : Reg) (off : BitVec 16) (imm : BitVec 32)
  /-- `stb [dst+off], imm` (R209). -/
  | stb (dst : Reg) (off : BitVec 16) (imm : BitVec 32)
  /-- `stdw [dst+off], imm` (R210). -/
  | stdw (dst : Reg) (off : BitVec 16) (imm : BitVec 32)
  /-- `stxw [dst+off], src` (R212). -/
  | stxw (dst : Reg) (off : BitVec 16) (src : Reg)
  /-- `stxh [dst+off], src` (R213). -/
  | stxh (dst : Reg) (off : BitVec 16) (src : Reg)
  /-- `stxb [dst+off], src` (R214). -/
  | stxb (dst : Reg) (off : BitVec 16) (src : Reg)
  /-- `stxdw [dst+off], src` (R215). -/
  | stxdw (dst : Reg) (off : BitVec 16) (src : Reg)
  -- Encodings that end the run in Aborted (spec/30_encoding.md R86). Each keeps the whole word, which FAULT_INFO reports (R240)
  /-- `(decode fault: memory class, mode 7)` (R81). -/
  | faultMode7 (w : Word)
  /-- `(decode fault: ALU/JMP class, op 14 or 15)` (R81). -/
  | faultOp14Or15 (w : Word)
  /-- `(mode ABS, any memory class and size)` (R216). -/
  | modeAbs (w : Word)
  /-- `(mode IND, any memory class and size)` (R216). -/
  | modeInd (w : Word)
  /-- `(mode LEN, any memory class and size)` (R216). -/
  | modeLen (w : Word)
  /-- `(mode MSH, any memory class and size)` (R216). -/
  | modeMsh (w : Word)
  /-- `(mode XADD, any memory class and size)` (R217). -/
  | modeXadd (w : Word)
  /-- `(opcode 0x00: no rule)` (R218). -/
  | noRule00 (w : Word)
  /-- `(opcode 0x08: no rule)` (R218). -/
  | noRule08 (w : Word)
  /-- `(opcode 0x10: no rule)` (R218). -/
  | noRule10 (w : Word)
  /-- `(opcode 0x60: no rule)` (R218). -/
  | noRule60 (w : Word)
  /-- `(opcode 0x68: no rule)` (R218). -/
  | noRule68 (w : Word)
  /-- `(opcode 0x70: no rule)` (R218). -/
  | noRule70 (w : Word)
  /-- `(opcode 0x78: no rule)` (R218). -/
  | noRule78 (w : Word)
  /-- `(opcode 0x01: no rule)` (R218). -/
  | noRule01 (w : Word)
  /-- `(opcode 0x09: no rule)` (R218). -/
  | noRule09 (w : Word)
  /-- `(opcode 0x11: no rule)` (R218). -/
  | noRule11 (w : Word)
  /-- `(opcode 0x19: no rule)` (R218). -/
  | noRule19 (w : Word)
  /-- `(opcode 0x02: no rule)` (R218). -/
  | noRule02 (w : Word)
  /-- `(opcode 0x0a: no rule)` (R218). -/
  | noRule0a (w : Word)
  /-- `(opcode 0x12: no rule)` (R218). -/
  | noRule12 (w : Word)
  /-- `(opcode 0x1a: no rule)` (R218). -/
  | noRule1a (w : Word)
  /-- `(opcode 0x03: no rule)` (R218). -/
  | noRule03 (w : Word)
  /-- `(opcode 0x0b: no rule)` (R218). -/
  | noRule0b (w : Word)
  /-- `(opcode 0x13: no rule)` (R218). -/
  | noRule13 (w : Word)
  /-- `(opcode 0x1b: no rule)` (R218). -/
  | noRule1b (w : Word)
  /-- `(neg32 with s = X, opcode 0x8c)` (R137). -/
  | neg32X (w : Word)
  /-- `(neg with s = X, opcode 0x8f)` (R137). -/
  | negX (w : Word)
  /-- `(END opcode 0xd4 with imm not 16, 32 or 64)` (R136). -/
  | endWidthD4 (w : Word)
  /-- `(END opcode 0xdc with imm not 16, 32 or 64)` (R136). -/
  | endWidthDC (w : Word)
  /-- `(END opcode 0xd7 with imm not 16, 32 or 64)` (R136). -/
  | endWidthD7 (w : Word)
  /-- `(END opcode 0xdf with imm not 16, 32 or 64)` (R136). -/
  | endWidthDF (w : Word)
  /-- `(ja with s = X, opcode 0x0d)` (R188). -/
  | jaX (w : Word)
  /-- `(exit with s = X, opcode 0x9d)` (R188). -/
  | exitX (w : Word)
  /-- `(call with s = X, opcode 0x8d)` (R188). -/
  | callX (w : Word)
  /-- `(JMP32 ja, opcode 0x06)` (R188). -/
  | ja32 (w : Word)
  /-- `(JMP32 ja, s = X, opcode 0x0e)` (R188). -/
  | ja32X (w : Word)
  /-- `(JMP32 call, opcode 0x86)` (R188). -/
  | call32 (w : Word)
  /-- `(JMP32 call, s = X, opcode 0x8e)` (R188). -/
  | call32X (w : Word)
  /-- `(JMP32 exit, opcode 0x96)` (R188). -/
  | exit32 (w : Word)
  /-- `(JMP32 exit, s = X, opcode 0x9e)` (R188). -/
  | exit32X (w : Word)
  /-- `(call with src != 0, src bit 0x1 set)` (R234). -/
  | callSrc1 (w : Word)
  /-- `(call with src != 0, src bit 0x2 set)` (R234). -/
  | callSrc2 (w : Word)
  /-- `(call with src != 0, src bit 0x4 set)` (R234). -/
  | callSrc4 (w : Word)
  /-- `(call with src != 0, src bit 0x8 set)` (R234). -/
  | callSrc8 (w : Word)
  deriving DecidableEq, Repr

end Sys2Proof
end

