-- ==== Sys2Proof/Machine/State.lean ====
section
/-! DEFINITION. The state of the execution core as plain data (spec/10_state.md R20 to R42), the reasons a step can
stop, and the state after reset. -/

namespace Sys2Proof.Machine

/-- STATUS (R35). -/
inductive Status where
  | idle | running | terminated | aborted
  deriving DecidableEq, Repr

/-- TERM_CAUSE (R35). -/
inductive TermCause where
  | exit | divideByZero
  deriving DecidableEq, Repr

/-- FAULT (R35, R240). Codes 10 to 15 of the 4-bit register are never written, so they are no values here. -/
inductive FaultCode where
  | none
  | decodeFault
  | unimplementedOpcode
  | unsupportedAddressingMode
  | helperIndexOutOfRange
  | outOfBoundsMemoryAccess
  | invalidOperand
  | pcOutOfRange
  | misalignedAccess
  | stepBudgetExhausted
  deriving DecidableEq, Repr

/-- BYTE_ORDER (R7, R53). -/
inductive ByteOrder where
  | little | big
  deriving DecidableEq, Repr

/-- A byte range of the data space (R51, R52). `writable` defaults to false (D37). -/
structure Region where
  base : Nat
  len : Nat
  writable : Bool := false
  deriving DecidableEq, Repr

/-- The bytes of data memory that have a known value, addresses strictly rising. An unlisted byte has no known
value: it reads as the free draw (R271, log 7, log 9). -/
abbrev Memory := List Host.Cell

/-- `helper_req` (R40, R231): the helper index and the five arguments. -/
structure HelperRequest where
  index : Nat
  a1 : Word
  a2 : Word
  a3 : Word
  a4 : Word
  a5 : Word
  deriving DecidableEq, Repr

/-- `helper_rsp` (R40, R232): the helper's result, and the bytes it writes, first write first. -/
structure HelperResponse where
  result : Word
  writes : List Host.Cell
  deriving DecidableEq, Repr

/-- One row of a relation `HelperSpec_k((a1..a5), M) -> (r, M')` (R232): what it asks of the arguments and of `M`, and
what it gives. A component that is `none` is left open (log 12). -/
structure HelperRow where
  /-- the five arguments -/
  a1 : Option Word := none
  a2 : Option Word := none
  a3 : Option Word := none
  a4 : Option Word := none
  a5 : Option Word := none
  /-- bytes `M` must hold -/
  reads : List Host.Cell := []
  /-- `r` -/
  result : Option Word := none
  /-- `M'`: `M` after these writes -/
  writes : Option (List Host.Cell) := none
  deriving DecidableEq, Repr

/-- A helper as the host gives it (R7, R232). -/
inductive HelperSpec where
  /-- "the host gives no relation": every result and every change of writable bytes -/
  | any
  /-- the relation, one row for each case it allows -/
  | relation (rows : List HelperRow)
  deriving DecidableEq, Repr

/-- A `start` event (R40, R270): what the host supplies for one invocation. -/
structure StartEvent where
  /-- the program words; `N` is their number -/
  prog : List Word
  /-- CTX -/
  ctx : Word
  /-- HELPERS; NHELPERS is their number -/
  helpers : List HelperSpec
  /-- STACK_BASE -/
  stackBase : Nat
  /-- REGIONS -/
  regions : List Region
  /-- the bytes of the regions and of the stack whose start contents the host fixes (R270, R271) -/
  contents : List Host.Cell
  /-- the answers the helper agents have ready, in order (R235, log 10) -/
  responses : List HelperResponse
  deriving DecidableEq, Repr

/-- The parameters fixed for a core (R7, log 15). -/
structure Params where
  /-- BYTE_ORDER -/
  byteOrder : ByteOrder := .little
  /-- ALLOW_MISALIGNED -/
  allowMisaligned : Bool := false
  /-- FUEL -/
  fuel : Option Nat := none
  /-- STACK_SIZE -/
  stackSize : Nat := Config.stackSize
  deriving DecidableEq, Repr

/-- Everything the spec gives the core (R36, R37, R40). -/
structure State where
  /-- the register file `x[0]` to `x[15]` (R20) -/
  regs : Vector Word 16
  /-- the program counter, a slot index, an unbounded integer (R30) -/
  pc : Int
  /-- STATUS (R35) -/
  status : Status
  /-- RESULT (R35) -/
  result : Word
  /-- TERM_CAUSE (R35) -/
  termCause : TermCause
  /-- FAULT (R35) -/
  fault : FaultCode
  /-- FAULT_PC (R35) -/
  faultPc : Int
  /-- FAULT_INFO (R35) -/
  faultInfo : Word
  /-- STEPS (R35) -/
  steps : Nat
  /-- the data memory (R38, R57) -/
  mem : Memory
  /-- the program words; `N` is their number (R38) -/
  prog : List Word
  /-- HELPERS, the helper table; NHELPERS is its length (R7, R232, R235) -/
  helpers : List HelperSpec
  /-- STACK_BASE (R51) -/
  stackBase : Nat
  /-- REGIONS (R52) -/
  regions : List Region
  /-- the outstanding helper request (R37, R231) -/
  helperReq : Option HelperRequest
  /-- the `helper_rsp` port: answers not yet taken, oldest first (R40, R231, log 10) -/
  helperRsp : List HelperResponse
  /-- the `start` port (R40, R41, log 5) -/
  startIn : Option StartEvent
  /-- the parameters (R7) -/
  params : Params
  /-- the MODEL's own: which draw of the initial contents this invocation reads (R271, log 7) -/
  draw : Nat
  deriving DecidableEq, Repr

/-- Why the machine takes no step. Neither is a fault of the spec's table R240: those are next states in which
STATUS is Aborted (R241, log 3). -/
inductive Fault where
  /-- raised by `step`: STATUS is not Running and no start is presented, so "no step happens" (R31, R42). Safe. -/
  | notRunning
  /-- raised by `step`: a CALL waits for a helper that has not answered, so the core "takes no further step"
  (R231). Safe. -/
  | helperPending
  deriving DecidableEq, Repr

/-- What the model has no move for. -/
inductive Refusal where
  /-- raised by an arm of `exec` with no meaning yet (no arm uses it). Safe. -/
  | notModelled (mnemonic : String)
  /-- raised by `start`: "a `start` while Running is refused (the model has no move for it)" (R41). Safe. -/
  | startWhileRunning
  /-- raised by `start`: the stack and the regions overlap or wrap, and such a start "is refused" (R52, R274). Safe. -/
  | startBadRegions
  /-- raised by `step`: the answer at the port of a waiting CALL is none the helper's relation allows, and "the model
  takes every response the relation allows" (R232, log 12). Safe. -/
  | helperAnswerForbidden
  deriving DecidableEq, Repr

/-- What a step or a meaning answers. -/
abbrev Out := Host.Outcome State Fault Refusal

/-- The registers at the start of an invocation (R270). -/
def startRegs (ctx : Word) (stackTop : Nat) : Vector Word 16 :=
  ((Vector.replicate 16 0).set 1 ctx).set 10 (BitVec.ofNat 64 stackTop)

/-- The state after reset. "The core has no reset other than the start of an invocation" (R270), so this is the
state a start leaves (R36), with the parameters of log 6 and the empty program (R275). -/
def State.reset : State where
  regs := startRegs Config.ctx (Config.stackBase + Config.stackSize)
  pc := 0
  status := .running
  result := 0
  termCause := .exit
  fault := .none
  faultPc := 0
  faultInfo := 0
  steps := 0
  mem := []
  prog := []
  helpers := []
  stackBase := Config.stackBase
  regions := []
  helperReq := none
  helperRsp := []
  startIn := none
  params := {}
  draw := 0

end Sys2Proof.Machine
end

