-- ==== Sys2Proof/Machine/Flags.lean ====
section
/-! DEFINITION. Conditions. The core has no flags (spec/10_state.md R25): a conditional jump computes its condition
from its operands and leaves nothing behind. The rows are those of spec/41_jump.md R162, at either width. -/

namespace Sys2Proof.Machine

variable {n : Nat} (a b : BitVec n)

/-- JEQ: `a == b`. -/
def condEq : Bool := a == b

/-- JGT: `a >u b`. -/
def condGt : Bool := b.ult a

/-- JGE: `a >=u b`. -/
def condGe : Bool := b.ule a

/-- JSET: `(a & b) != 0`. -/
def condSet : Bool := a &&& b != 0

/-- JNE: `a != b`. -/
def condNe : Bool := a != b

/-- JSGT: `a >s b`. -/
def condSgt : Bool := b.slt a

/-- JSGE: `a >=s b`. -/
def condSge : Bool := b.sle a

/-- JLT: `a <u b`. -/
def condLt : Bool := a.ult b

/-- JLE: `a <=u b`. -/
def condLe : Bool := a.ule b

/-- JSLT: `a <s b`. -/
def condSlt : Bool := a.slt b

/-- JSLE: `a <=s b`. -/
def condSle : Bool := a.sle b

end Sys2Proof.Machine
end

