-- ==== Sys2Proof/Machine/Operands.lean ====
section
/-! DEFINITION. Operand forms and value computations (spec/00_scope.md R9, R12; spec/20_memory.md R53, R54, R57;
spec/40_alu.md R104, R132): source operands, effective address, jump target, shift amounts and byte order. -/

namespace Sys2Proof.Machine

/-! ### Registers (R10, R20) -/

/-- `x[r]`. -/
def State.reg (s : State) (r : Reg) : Word := s.regs[r]

/-- `x[r] <- v`: no register is hardwired (R20), `x[10]` included (R21). -/
def State.setReg (s : State) (r : Reg) (v : Word) : State := { s with regs := s.regs.set r v }

/-! ### Source operands (R12) -/

/-- `opnd64` for s = K: `sext_32(imm)`. -/
def opnd64K (imm : BitVec 32) : Word := imm.signExtend 64

/-- `opnd64` for s = X: `x[src]`. -/
def opnd64X (s : State) (src : Reg) : Word := s.reg src

/-- `opnd32` for s = K: the 32 bits of `imm`. -/
def opnd32K (imm : BitVec 32) : BitVec 32 := imm

/-- `opnd32` for s = X: `x[src][31:0]`. -/
def opnd32X (s : State) (src : Reg) : BitVec 32 := (s.reg src).setWidth 32

/-- `x[dst][31:0]`. -/
def low32 (s : State) (dst : Reg) : BitVec 32 := (s.reg dst).setWidth 32

/-! ### Addresses -/

/-- The effective address `(base + sext_16(off)) mod 2^64` (R54). -/
def effAddr (s : State) (base : Reg) (off : BitVec 16) : Word := s.reg base + off.signExtend 64

/-- The target of a taken jump, `pc_i + 1 + sext_16(off)` as an integer (R32); `s.pc` is `pc_i`. -/
def jumpTarget (s : State) (off : BitVec 16) : Int := s.pc + 1 + off.toInt

/-- The helper index a CALL names, `s64(sext_32(imm))` (R233). -/
def helperIndex (imm : BitVec 32) : Int := (imm.signExtend 64).toInt

/-! ### Shift amounts (R104) -/

/-- `opnd32 & 31`. -/
def shiftAmount32 (b : BitVec 32) : Nat := (b &&& 31).toNat

/-- `opnd64 & 63`. -/
def shiftAmount64 (b : Word) : Nat := (b &&& 63).toNat

/-! ### Shifts -/

/-- `a << (b & 31)` (R118). -/
def lsh32 (a b : BitVec 32) : BitVec 32 := a <<< shiftAmount32 b

/-- `a >>u (b & 31)` (R120). -/
def rsh32 (a b : BitVec 32) : BitVec 32 := a >>> shiftAmount32 b

/-- `a >>s (b & 31)`, bit 31 fills (R130). -/
def arsh32 (a b : BitVec 32) : BitVec 32 := a.sshiftRight (shiftAmount32 b)

/-- `a << (b & 63)` (R119). -/
def lsh64 (a b : Word) : Word := a <<< shiftAmount64 b

/-- `a >>u (b & 63)` (R121). -/
def rsh64 (a b : Word) : Word := a >>> shiftAmount64 b

/-- `a >>s (b & 63)`, bit 63 fills (R131). -/
def arsh64 (a b : Word) : Word := a.sshiftRight (shiftAmount64 b)

/-! ### Byte order -/

/-- The value whose least significant byte comes first (R57). -/
def ofBytesLE : List Byte → Word
  | [] => 0
  | b :: bs => b.setWidth 64 ||| ofBytesLE bs <<< 8

/-- The low `n` bytes of a value, least significant first (R57). -/
def toBytesLE : Nat → Word → List Byte
  | 0, _ => []
  | n + 1, v => v.setWidth 8 :: toBytesLE n (v >>> 8)

/-- The value of bytes read from rising addresses: the first is the least significant in little-endian order and the
most significant in big-endian order (R53). -/
def ofBytes : ByteOrder → List Byte → Word
  | .little, bs => ofBytesLE bs
  | .big, bs => ofBytesLE bs.reverse

/-- The low `n` bytes of a value in the order they are stored at rising addresses (R53, R57). -/
def toBytes : ByteOrder → Nat → Word → List Byte
  | .little, n, v => toBytesLE n v
  | .big, n, v => (toBytesLE n v).reverse

/-- `zext_n(v[n-1:0])` for a width of `k` bytes (R132). -/
def truncBytes (k : Nat) (v : Word) : Word := ofBytesLE (toBytesLE k v)

/-- `zext_n(bswap_n(v[n-1:0]))` for a width of `k` bytes (R132). -/
def swapBytes (k : Nat) (v : Word) : Word := ofBytesLE (toBytesLE k v).reverse

/-- `to_le_n` for a width of `k` bytes; the two conversions change places on a big-endian machine (R132). -/
def toLittle : ByteOrder → Nat → Word → Word
  | .little, k, v => truncBytes k v
  | .big, k, v => swapBytes k v

/-- `to_be_n` for a width of `k` bytes (R132). -/
def toBig : ByteOrder → Nat → Word → Word
  | .little, k, v => swapBytes k v
  | .big, k, v => truncBytes k v

end Sys2Proof.Machine
end

