-- ==== Sys2Proof/Machine/Ops.lean ====
section
/-! DEFINITION. The named operations: memory, the pc, ending an invocation by a fault or a termination
(spec/60_exceptions.md R241, R244), and the shared shapes of the instruction families. There is no return from a
fault (R247): the only way on is a new start (Machine/Start.lean). -/

namespace Sys2Proof.Machine

/-! ### Memory bytes -/

/-- What an unlisted address holds: no known value (R271, log 9). -/
def Memory.unlisted : Option Byte := none

/-- The known value of the byte at `a`. -/
def Memory.find : Memory → Nat → Option Byte
  | [], _ => Memory.unlisted
  | c :: m, a => if a = c.1 then some c.2 else Memory.find m a

/-- Write one byte, keeping the addresses strictly rising. -/
def Memory.write : Memory → Nat → Byte → Memory
  | [], a, v => [(a, v)]
  | c :: m, a, v =>
    if a < c.1 then (a, v) :: c :: m
    else if a = c.1 then (a, v) :: m
    else c :: Memory.write m a v

/-- Write bytes at rising addresses from `a`. -/
def Memory.writeBytes : Memory → Nat → List Byte → Memory
  | m, _, [] => m
  | m, a, v :: vs => Memory.writeBytes (Memory.write m a v) (a + 1) vs

/-- Every address of the memory is above `a`. -/
def Memory.allAbove (a : Nat) : Memory → Bool
  | [] => true
  | c :: _ => a < c.1

/-- The canonical form: addresses strictly rising, and no entry equal to what an unlisted address holds. -/
def Memory.wf : Memory → Bool
  | [] => true
  | c :: m => Memory.allAbove c.1 m && some c.2 != Memory.unlisted && Memory.wf m

/-- One byte of data memory: the known value, or else the free draw of this invocation (R58, R271, log 7). -/
def State.byteAt (s : State) (a : Nat) : Byte := (s.mem.find a).getD (Config.initByte s.draw a)

/-- The `n` bytes from `a`. -/
def State.bytesAt (s : State) (a : Nat) : Nat → List Byte
  | 0 => []
  | n + 1 => s.byteAt a :: s.bytesAt (a + 1) n

/-- `MemRead(a, n)` (R10, R57). -/
def State.memRead (s : State) (a n : Nat) : Word := ofBytes s.params.byteOrder (s.bytesAt a n)

/-- `MemWrite(a, n, v)` (R10, R57). -/
def State.memWrite (s : State) (a n : Nat) (v : Word) : State :=
  { s with mem := s.mem.writeBytes a (toBytes s.params.byteOrder n v) }

/-! ### Regions and admission -/

/-- The stack as a region, always writable (R51, R55). -/
def State.stackRegion (s : State) : Region := ⟨s.stackBase, s.params.stackSize, true⟩

/-- The regions a program can reach: the stack and REGIONS (R51, R52). -/
def State.allRegions (s : State) : List Region := s.stackRegion :: s.regions

/-- The bytes `a` to `a + n - 1`, without wrap, lie inside the region (R55). -/
def Region.covers (r : Region) (a n : Nat) : Bool := decide (r.base ≤ a) && decide (a + n ≤ r.base + r.len)

/-- A read of `n` bytes at `a` is admitted: inside ONE region (R55). -/
def State.admitsRead (s : State) (a n : Nat) : Bool := s.allRegions.any (·.covers a n)

/-- A write of `n` bytes at `a` is admitted: inside one writable region (R55). -/
def State.admitsWrite (s : State) (a n : Nat) : Bool := s.allRegions.any fun r => r.writable && r.covers a n

/-- `ea mod n != 0` and misaligned accesses are not allowed (R56). -/
def State.misaligned (s : State) (a n : Nat) : Bool := !s.params.allowMisaligned && a % n != 0

/-! ### The helper table -/

/-- NHELPERS, the length of HELPERS (R7). -/
def State.nhelpers (s : State) : Nat := s.helpers.length

/-! ### The pc -/

/-- The ordinary advance over an instruction of `n` slots (R31 part 5). -/
def State.advance (s : State) (n : Nat) : State := { s with pc := s.pc + n }

/-- Set the pc (R32). -/
def State.setPc (s : State) (p : Int) : State := { s with pc := p }

/-! ### The two ends of an invocation -/

/-- What `raise F(info)` leaves (R241), on a state whose `pc` is `pc_i`: nothing but the run-status registers changes. -/
def State.abort (s : State) (f : FaultCode) (info : Word) : State :=
  { s with status := .aborted, fault := f, faultPc := s.pc, faultInfo := info, result := 0 }

/-- `raise F(info)` (R241): the abort is a next state (log 3); `pc <- pc_i` holds since the pc has not advanced (log 2). -/
def raise (f : FaultCode) (info : Word) (s : State) : Out := .next (s.abort f info)

/-- What `terminate(v)` leaves (R244), after the ordinary advance (R11). -/
def State.finish (s : State) (v : Word) (cause : TermCause) : State :=
  { s.advance 1 with status := .terminated, result := v, termCause := cause, fault := .none, faultInfo := 0 }

/-- `terminate(v)` (R244). -/
def terminate (v : Word) (cause : TermCause) (s : State) : Out := .next (s.finish v cause)

/-! ### Shapes of the families -/

/-- Write `x[dst]` and go to the next slot. -/
def writeReg (dst : Reg) (v : Word) (s : State) : Out := .next ((s.setReg dst v).advance 1)

/-- A class-4 result: zero-extended to 64 bits (R100). -/
def writeReg32 (dst : Reg) (v : BitVec 32) (s : State) : Out := writeReg dst (v.setWidth 64) s

/-- DIV and MOD in class ALU: a zero divisor ends the run with result 0 (R103). -/
def divide32 (f : BitVec 32 → BitVec 32 → BitVec 32) (dst : Reg) (b : BitVec 32) (s : State) : Out :=
  if b = 0 then terminate 0 .divideByZero s else writeReg32 dst (f (low32 s dst) b) s

/-- DIV and MOD in class ALU64 (R103). -/
def divide64 (f : Word → Word → Word) (dst : Reg) (b : Word) (s : State) : Out :=
  if b = 0 then terminate 0 .divideByZero s else writeReg dst (f (s.reg dst) b) s

/-- A conditional jump (R163). -/
def branch (taken : Bool) (off : BitVec 16) (s : State) : Out :=
  .next (if taken then s.setPc (jumpTarget s off) else s.advance 1)

/-- A load of `n` bytes (R201); the checks in the order of R219. -/
def load (n : Nat) (dst base : Reg) (off : BitVec 16) (s : State) : Out :=
  let ea := effAddr s base off
  if !s.admitsRead ea.toNat n then raise .outOfBoundsMemoryAccess ea s
  else if s.misaligned ea.toNat n then raise .misalignedAccess ea s
  else writeReg dst (s.memRead ea.toNat n) s

/-- A store of the low `n` bytes of `v` (R206, R211); the checks in the order of R219. -/
def store (n : Nat) (base : Reg) (off : BitVec 16) (v : Word) (s : State) : Out :=
  let ea := effAddr s base off
  if !s.admitsWrite ea.toNat n then raise .outOfBoundsMemoryAccess ea s
  else if s.misaligned ea.toNat n then raise .misalignedAccess ea s
  else .next ((s.memWrite ea.toNat n v).advance 1)

/-! ### Numbers of the run-status registers (R35, R240) -/

/-- The 2-bit value of STATUS. -/
def Status.code : Status → BitVec 2
  | .idle => 0
  | .running => 1
  | .terminated => 2
  | .aborted => 3

/-- The 1-bit value of TERM_CAUSE. -/
def TermCause.code : TermCause → BitVec 1
  | .exit => 0
  | .divideByZero => 1

/-- The 4-bit value of FAULT. -/
def FaultCode.code : FaultCode → BitVec 4
  | .none => 0
  | .decodeFault => 1
  | .unimplementedOpcode => 2
  | .unsupportedAddressingMode => 3
  | .helperIndexOutOfRange => 4
  | .outOfBoundsMemoryAccess => 5
  | .invalidOperand => 6
  | .pcOutOfRange => 7
  | .misalignedAccess => 8
  | .stepBudgetExhausted => 9

end Sys2Proof.Machine
end

