-- ==== Sys2Proof/Machine/Alu32.lean ====
section
/-! DEFINITION. The ALU (class 4, 32-bit) instructions but END (spec/40_alu.md R100 to R131). DIV and MOD are unsigned (R105). -/

namespace Sys2Proof.Machine

/-- `add32 dst, imm` (R106). -/
def execAdd32K (dst : Reg) (imm : BitVec 32) (s : State) : Out :=
  writeReg32 dst (low32 s dst + opnd32K imm) s

/-- `add32 dst, src` (R106). -/
def execAdd32X (dst : Reg) (src : Reg) (s : State) : Out :=
  writeReg32 dst (low32 s dst + opnd32X s src) s

/-- `sub32 dst, imm` (R108). -/
def execSub32K (dst : Reg) (imm : BitVec 32) (s : State) : Out :=
  writeReg32 dst (low32 s dst - opnd32K imm) s

/-- `sub32 dst, src` (R108). -/
def execSub32X (dst : Reg) (src : Reg) (s : State) : Out :=
  writeReg32 dst (low32 s dst - opnd32X s src) s

/-- `mul32 dst, imm` (R110). -/
def execMul32K (dst : Reg) (imm : BitVec 32) (s : State) : Out :=
  writeReg32 dst (low32 s dst * opnd32K imm) s

/-- `mul32 dst, src` (R110). -/
def execMul32X (dst : Reg) (src : Reg) (s : State) : Out :=
  writeReg32 dst (low32 s dst * opnd32X s src) s

/-- `div32 dst, imm` (R112). -/
def execDiv32K (dst : Reg) (imm : BitVec 32) (s : State) : Out :=
  divide32 (· / ·) dst (opnd32K imm) s

/-- `div32 dst, src` (R112). -/
def execDiv32X (dst : Reg) (src : Reg) (s : State) : Out :=
  divide32 (· / ·) dst (opnd32X s src) s

/-- `or32 dst, imm` (R114). -/
def execOr32K (dst : Reg) (imm : BitVec 32) (s : State) : Out :=
  writeReg32 dst (low32 s dst ||| opnd32K imm) s

/-- `or32 dst, src` (R114). -/
def execOr32X (dst : Reg) (src : Reg) (s : State) : Out :=
  writeReg32 dst (low32 s dst ||| opnd32X s src) s

/-- `and32 dst, imm` (R116). -/
def execAnd32K (dst : Reg) (imm : BitVec 32) (s : State) : Out :=
  writeReg32 dst (low32 s dst &&& opnd32K imm) s

/-- `and32 dst, src` (R116). -/
def execAnd32X (dst : Reg) (src : Reg) (s : State) : Out :=
  writeReg32 dst (low32 s dst &&& opnd32X s src) s

/-- `lsh32 dst, imm` (R118). -/
def execLsh32K (dst : Reg) (imm : BitVec 32) (s : State) : Out :=
  writeReg32 dst (lsh32 (low32 s dst) (opnd32K imm)) s

/-- `lsh32 dst, src` (R118). -/
def execLsh32X (dst : Reg) (src : Reg) (s : State) : Out :=
  writeReg32 dst (lsh32 (low32 s dst) (opnd32X s src)) s

/-- `rsh32 dst, imm` (R120). -/
def execRsh32K (dst : Reg) (imm : BitVec 32) (s : State) : Out :=
  writeReg32 dst (rsh32 (low32 s dst) (opnd32K imm)) s

/-- `rsh32 dst, src` (R120). -/
def execRsh32X (dst : Reg) (src : Reg) (s : State) : Out :=
  writeReg32 dst (rsh32 (low32 s dst) (opnd32X s src)) s

/-- `neg32 dst` (R122). -/
def execNeg32 (dst : Reg) (s : State) : Out :=
  writeReg32 dst (-low32 s dst) s

/-- `mod32 dst, imm` (R124). -/
def execMod32K (dst : Reg) (imm : BitVec 32) (s : State) : Out :=
  divide32 (· % ·) dst (opnd32K imm) s

/-- `mod32 dst, src` (R124). -/
def execMod32X (dst : Reg) (src : Reg) (s : State) : Out :=
  divide32 (· % ·) dst (opnd32X s src) s

/-- `xor32 dst, imm` (R126). -/
def execXor32K (dst : Reg) (imm : BitVec 32) (s : State) : Out :=
  writeReg32 dst (low32 s dst ^^^ opnd32K imm) s

/-- `xor32 dst, src` (R126). -/
def execXor32X (dst : Reg) (src : Reg) (s : State) : Out :=
  writeReg32 dst (low32 s dst ^^^ opnd32X s src) s

/-- `mov32 dst, imm` (R128). -/
def execMov32K (dst : Reg) (imm : BitVec 32) (s : State) : Out :=
  writeReg32 dst (opnd32K imm) s

/-- `mov32 dst, src` (R128). -/
def execMov32X (dst : Reg) (src : Reg) (s : State) : Out :=
  writeReg32 dst (opnd32X s src) s

/-- `arsh32 dst, imm` (R130). -/
def execArsh32K (dst : Reg) (imm : BitVec 32) (s : State) : Out :=
  writeReg32 dst (arsh32 (low32 s dst) (opnd32K imm)) s

/-- `arsh32 dst, src` (R130). -/
def execArsh32X (dst : Reg) (src : Reg) (s : State) : Out :=
  writeReg32 dst (arsh32 (low32 s dst) (opnd32X s src)) s

end Sys2Proof.Machine
end

