-- ==== Sys2Proof/Machine/Alu64.lean ====
section
/-! DEFINITION. The ALU64 (class 7, 64-bit) instructions but END (spec/40_alu.md R100 to R131). DIV and MOD are unsigned (R105). -/

namespace Sys2Proof.Machine

/-- `add dst, imm` (R107). -/
def execAddK (dst : Reg) (imm : BitVec 32) (s : State) : Out :=
  writeReg dst (s.reg dst + opnd64K imm) s

/-- `add dst, src` (R107). -/
def execAddX (dst : Reg) (src : Reg) (s : State) : Out :=
  writeReg dst (s.reg dst + opnd64X s src) s

/-- `sub dst, imm` (R109). -/
def execSubK (dst : Reg) (imm : BitVec 32) (s : State) : Out :=
  writeReg dst (s.reg dst - opnd64K imm) s

/-- `sub dst, src` (R109). -/
def execSubX (dst : Reg) (src : Reg) (s : State) : Out :=
  writeReg dst (s.reg dst - opnd64X s src) s

/-- `mul dst, imm` (R111). -/
def execMulK (dst : Reg) (imm : BitVec 32) (s : State) : Out :=
  writeReg dst (s.reg dst * opnd64K imm) s

/-- `mul dst, src` (R111). -/
def execMulX (dst : Reg) (src : Reg) (s : State) : Out :=
  writeReg dst (s.reg dst * opnd64X s src) s

/-- `div dst, imm` (R113). -/
def execDivK (dst : Reg) (imm : BitVec 32) (s : State) : Out :=
  divide64 (· / ·) dst (opnd64K imm) s

/-- `div dst, src` (R113). -/
def execDivX (dst : Reg) (src : Reg) (s : State) : Out :=
  divide64 (· / ·) dst (opnd64X s src) s

/-- `or dst, imm` (R115). -/
def execOrK (dst : Reg) (imm : BitVec 32) (s : State) : Out :=
  writeReg dst (s.reg dst ||| opnd64K imm) s

/-- `or dst, src` (R115). -/
def execOrX (dst : Reg) (src : Reg) (s : State) : Out :=
  writeReg dst (s.reg dst ||| opnd64X s src) s

/-- `and dst, imm` (R117). -/
def execAndK (dst : Reg) (imm : BitVec 32) (s : State) : Out :=
  writeReg dst (s.reg dst &&& opnd64K imm) s

/-- `and dst, src` (R117). -/
def execAndX (dst : Reg) (src : Reg) (s : State) : Out :=
  writeReg dst (s.reg dst &&& opnd64X s src) s

/-- `lsh dst, imm` (R119). -/
def execLshK (dst : Reg) (imm : BitVec 32) (s : State) : Out :=
  writeReg dst (lsh64 (s.reg dst) (opnd64K imm)) s

/-- `lsh dst, src` (R119). -/
def execLshX (dst : Reg) (src : Reg) (s : State) : Out :=
  writeReg dst (lsh64 (s.reg dst) (opnd64X s src)) s

/-- `rsh dst, imm` (R121). -/
def execRshK (dst : Reg) (imm : BitVec 32) (s : State) : Out :=
  writeReg dst (rsh64 (s.reg dst) (opnd64K imm)) s

/-- `rsh dst, src` (R121). -/
def execRshX (dst : Reg) (src : Reg) (s : State) : Out :=
  writeReg dst (rsh64 (s.reg dst) (opnd64X s src)) s

/-- `neg dst` (R123). -/
def execNeg (dst : Reg) (s : State) : Out :=
  writeReg dst (-s.reg dst) s

/-- `mod dst, imm` (R125). -/
def execModK (dst : Reg) (imm : BitVec 32) (s : State) : Out :=
  divide64 (· % ·) dst (opnd64K imm) s

/-- `mod dst, src` (R125). -/
def execModX (dst : Reg) (src : Reg) (s : State) : Out :=
  divide64 (· % ·) dst (opnd64X s src) s

/-- `xor dst, imm` (R127). -/
def execXorK (dst : Reg) (imm : BitVec 32) (s : State) : Out :=
  writeReg dst (s.reg dst ^^^ opnd64K imm) s

/-- `xor dst, src` (R127). -/
def execXorX (dst : Reg) (src : Reg) (s : State) : Out :=
  writeReg dst (s.reg dst ^^^ opnd64X s src) s

/-- `mov dst, imm` (R129). -/
def execMovK (dst : Reg) (imm : BitVec 32) (s : State) : Out :=
  writeReg dst (opnd64K imm) s

/-- `mov dst, src` (R129). -/
def execMovX (dst : Reg) (src : Reg) (s : State) : Out :=
  writeReg dst (opnd64X s src) s

/-- `arsh dst, imm` (R131). -/
def execArshK (dst : Reg) (imm : BitVec 32) (s : State) : Out :=
  writeReg dst (arsh64 (s.reg dst) (opnd64K imm)) s

/-- `arsh dst, src` (R131). -/
def execArshX (dst : Reg) (src : Reg) (s : State) : Out :=
  writeReg dst (arsh64 (s.reg dst) (opnd64X s src)) s

end Sys2Proof.Machine
end

