-- ==== Sys2Proof/Machine/ByteSwap.lean ====
section
/-! DEFINITION. END, byte-order conversion, in both ALU classes (spec/40_alu.md R132 to R135): no 32-bit re-mask on top. -/

namespace Sys2Proof.Machine

/-- `le16 dst` (R133). -/
def execLe16 (dst : Reg) (s : State) : Out :=
  writeReg dst (toLittle s.params.byteOrder 2 (s.reg dst)) s

/-- `le32 dst` (R133). -/
def execLe32 (dst : Reg) (s : State) : Out :=
  writeReg dst (toLittle s.params.byteOrder 4 (s.reg dst)) s

/-- `le64 dst` (R133). -/
def execLe64 (dst : Reg) (s : State) : Out :=
  writeReg dst (toLittle s.params.byteOrder 8 (s.reg dst)) s

/-- `be16 dst` (R134). -/
def execBe16 (dst : Reg) (s : State) : Out :=
  writeReg dst (toBig s.params.byteOrder 2 (s.reg dst)) s

/-- `be32 dst` (R134). -/
def execBe32 (dst : Reg) (s : State) : Out :=
  writeReg dst (toBig s.params.byteOrder 4 (s.reg dst)) s

/-- `be64 dst` (R134). -/
def execBe64 (dst : Reg) (s : State) : Out :=
  writeReg dst (toBig s.params.byteOrder 8 (s.reg dst)) s

/-- `le16_alu64 dst` (R135). -/
def execLe16Alu64 (dst : Reg) (s : State) : Out :=
  writeReg dst (toLittle s.params.byteOrder 2 (s.reg dst)) s

/-- `le32_alu64 dst` (R135). -/
def execLe32Alu64 (dst : Reg) (s : State) : Out :=
  writeReg dst (toLittle s.params.byteOrder 4 (s.reg dst)) s

/-- `le64_alu64 dst` (R135). -/
def execLe64Alu64 (dst : Reg) (s : State) : Out :=
  writeReg dst (toLittle s.params.byteOrder 8 (s.reg dst)) s

/-- `be16_alu64 dst` (R135). -/
def execBe16Alu64 (dst : Reg) (s : State) : Out :=
  writeReg dst (toBig s.params.byteOrder 2 (s.reg dst)) s

/-- `be32_alu64 dst` (R135). -/
def execBe32Alu64 (dst : Reg) (s : State) : Out :=
  writeReg dst (toBig s.params.byteOrder 4 (s.reg dst)) s

/-- `be64_alu64 dst` (R135). -/
def execBe64Alu64 (dst : Reg) (s : State) : Out :=
  writeReg dst (toBig s.params.byteOrder 8 (s.reg dst)) s

end Sys2Proof.Machine
end

