-- ==== Sys2Proof/Machine/Call.lean ====
section
/-! DEFINITION. CALL and the helper interface (spec/43_helper_call.md R230 to R236). -/

namespace Sys2Proof.Machine

/-- The bytes a helper writes, each only where a region is writable (R232, log 11). -/
def State.helperWrites (s : State) : List Host.Cell → Memory → Memory
  | [], m => m
  | c :: cs, m => s.helperWrites cs (if s.admitsWrite c.1 1 then m.write c.1 c.2 else m)

/-- The helper has answered: `x[0] <- r; M <- M'` and on to the next slot (R230, R232). -/
def finishCall (r : HelperResponse) (s : State) : State :=
  ({ s with mem := s.helperWrites r.writes s.mem, helperReq := none }.setReg 0 r.result).advance 1

/-- The request of R231: `helper_req = (k, x[1], ..., x[5])`. -/
def helperRequest (k : Nat) (s : State) : HelperRequest :=
  ⟨k, s.reg 1, s.reg 2, s.reg 3, s.reg 4, s.reg 5⟩

/-! ### The relation of a helper (R232, log 12) -/

/-- A component of a row that is left open, or that is this value. -/
def agrees : Option Word → Word → Bool
  | none, _ => true
  | some w, v => w == v

/-- The row is about these arguments. -/
def HelperRow.forArgs (row : HelperRow) (q : HelperRequest) : Bool :=
  agrees row.a1 q.a1 && agrees row.a2 q.a2 && agrees row.a3 q.a3 && agrees row.a4 q.a4 && agrees row.a5 q.a5

/-- The data memory holds these bytes; an address outside every region is none of its bytes (R50). -/
def State.holds (s : State) (cs : List Host.Cell) : Bool := cs.all fun c => s.admitsRead c.1 1 && s.byteAt c.1 == c.2

/-- The byte at `a`, `d` before the writes, after them. -/
def byteAfter : List Host.Cell → Nat → Byte → Byte
  | [], _, d => d
  | c :: cs, a, d => byteAfter cs a (if a = c.1 then c.2 else d)

/-- Two lists of writes leave the same data memory: every writable byte that either names ends alike. -/
def State.sameEffect (s : State) (ws vs : List Host.Cell) : Bool :=
  (ws ++ vs).all fun c => !s.admitsWrite c.1 1 || byteAfter ws c.1 (s.byteAt c.1) == byteAfter vs c.1 (s.byteAt c.1)

/-- The memory effect a row asks for. -/
def State.agreesMemory (s : State) : Option (List Host.Cell) → List Host.Cell → Bool
  | none, _ => true
  | some ws, vs => s.sameEffect ws vs

/-- The row relates this request and the data memory to this answer. -/
def HelperRow.allows (row : HelperRow) (q : HelperRequest) (r : HelperResponse) (s : State) : Bool :=
  row.forArgs q && s.holds row.reads && agrees row.result r.result && s.agreesMemory row.writes r.writes

/-- The helper may answer this. -/
def HelperSpec.allows (h : HelperSpec) (q : HelperRequest) (r : HelperResponse) (s : State) : Bool :=
  match h with
  | .any => true
  | .relation rows => rows.any fun row => row.allows q r s

/-- The helper that was asked may answer this. (No run asks for an index outside the table: R233, `Inv.requestLegal`.) -/
def State.allowsAnswer (s : State) (q : HelperRequest) (r : HelperResponse) : Bool :=
  match s.helpers[q.index]? with
  | some h => h.allows q r s
  | none => true

/-! ### CALL -/

/-- The state in which the answer at the port has completed the CALL, if there is one and the helper may give it. -/
def takeAnswer (q : HelperRequest) (s : State) : Option State :=
  match s.helperRsp with
  | r :: rest => if s.allowsAnswer q r then some (finishCall r { s with helperRsp := rest }) else none
  | [] => none

/-- Invoke helper `k` (R231): an answer at the port that the helper may give completes the CALL; without one the
request is outstanding and the core waits (log 10, log 13). -/
def callHelper (k : Nat) (s : State) : Out :=
  .next ((takeAnswer (helperRequest k s) s).getD { s with helperReq := some (helperRequest k s) })

/-- A waiting core (R231): an answer the helper may give completes the CALL; with none there is no step; one it may not
give is refused (R232, log 12). -/
def resumeCall (q : HelperRequest) (s : State) : Out :=
  match takeAnswer q s with
  | some t => .next t
  | none => if s.helperRsp = [] then .fault .helperPending else .refused .helperAnswerForbidden

/-- A helper's answer arrives at the port (R40). -/
def State.deliver (r : HelperResponse) (s : State) : State := { s with helperRsp := s.helperRsp ++ [r] }

/-- CALL (R230): the index is checked before anything is invoked (R233). -/
def execCall (imm : BitVec 32) (s : State) : Out :=
  if helperIndex imm < 0 ∨ (s.nhelpers : Int) ≤ helperIndex imm then
    raise .helperIndexOutOfRange (imm.signExtend 64) s
  else callHelper (helperIndex imm).toNat s

end Sys2Proof.Machine
end

