-- ==== Sys2Proof/WellFormed.lean ====
section
/-! DEFINITION. The instruction terms that stand for an encoding. Register numbers and immediates are bounded by
their types; what is checked is that the word an aborting constructor keeps is a word of its row of
spec/opcode_table.json. -/

namespace Sys2Proof

/-- The word agrees with `pattern` on the bits of `mask` (the match and mask of an opcode-table row). -/
def inRow (w mask pattern : Word) : Bool := w &&& mask == pattern

/-- The immediate field is none of the widths END accepts (R136). -/
def badEndWidth (w : Word) : Bool := w >>> 32 != 16 && w >>> 32 != 32 && w >>> 32 != 64

/-- The instruction term stands for an encoding. -/
def Instr.wellFormed : Instr → Bool
  | .add32K _ _ => true
  | .add32X _ _ => true
  | .sub32K _ _ => true
  | .sub32X _ _ => true
  | .mul32K _ _ => true
  | .mul32X _ _ => true
  | .div32K _ _ => true
  | .div32X _ _ => true
  | .or32K _ _ => true
  | .or32X _ _ => true
  | .and32K _ _ => true
  | .and32X _ _ => true
  | .lsh32K _ _ => true
  | .lsh32X _ _ => true
  | .rsh32K _ _ => true
  | .rsh32X _ _ => true
  | .neg32 _ => true
  | .mod32K _ _ => true
  | .mod32X _ _ => true
  | .xor32K _ _ => true
  | .xor32X _ _ => true
  | .mov32K _ _ => true
  | .mov32X _ _ => true
  | .arsh32K _ _ => true
  | .arsh32X _ _ => true
  | .addK _ _ => true
  | .addX _ _ => true
  | .subK _ _ => true
  | .subX _ _ => true
  | .mulK _ _ => true
  | .mulX _ _ => true
  | .divK _ _ => true
  | .divX _ _ => true
  | .orK _ _ => true
  | .orX _ _ => true
  | .andK _ _ => true
  | .andX _ _ => true
  | .lshK _ _ => true
  | .lshX _ _ => true
  | .rshK _ _ => true
  | .rshX _ _ => true
  | .neg _ => true
  | .modK _ _ => true
  | .modX _ _ => true
  | .xorK _ _ => true
  | .xorX _ _ => true
  | .movK _ _ => true
  | .movX _ _ => true
  | .arshK _ _ => true
  | .arshX _ _ => true
  | .le16 _ => true
  | .le32 _ => true
  | .le64 _ => true
  | .be16 _ => true
  | .be32 _ => true
  | .be64 _ => true
  | .le16Alu64 _ => true
  | .le32Alu64 _ => true
  | .le64Alu64 _ => true
  | .be16Alu64 _ => true
  | .be32Alu64 _ => true
  | .be64Alu64 _ => true
  | .ja _ => true
  | .jeqK _ _ _ => true
  | .jeqX _ _ _ => true
  | .jgtK _ _ _ => true
  | .jgtX _ _ _ => true
  | .jgeK _ _ _ => true
  | .jgeX _ _ _ => true
  | .jsetK _ _ _ => true
  | .jsetX _ _ _ => true
  | .jneK _ _ _ => true
  | .jneX _ _ _ => true
  | .jsgtK _ _ _ => true
  | .jsgtX _ _ _ => true
  | .jsgeK _ _ _ => true
  | .jsgeX _ _ _ => true
  | .jltK _ _ _ => true
  | .jltX _ _ _ => true
  | .jleK _ _ _ => true
  | .jleX _ _ _ => true
  | .jsltK _ _ _ => true
  | .jsltX _ _ _ => true
  | .jsleK _ _ _ => true
  | .jsleX _ _ _ => true
  | .jeq32K _ _ _ => true
  | .jeq32X _ _ _ => true
  | .jgt32K _ _ _ => true
  | .jgt32X _ _ _ => true
  | .jge32K _ _ _ => true
  | .jge32X _ _ _ => true
  | .jset32K _ _ _ => true
  | .jset32X _ _ _ => true
  | .jne32K _ _ _ => true
  | .jne32X _ _ _ => true
  | .jsgt32K _ _ _ => true
  | .jsgt32X _ _ _ => true
  | .jsge32K _ _ _ => true
  | .jsge32X _ _ _ => true
  | .jlt32K _ _ _ => true
  | .jlt32X _ _ _ => true
  | .jle32K _ _ _ => true
  | .jle32X _ _ _ => true
  | .jslt32K _ _ _ => true
  | .jslt32X _ _ _ => true
  | .jsle32K _ _ _ => true
  | .jsle32X _ _ _ => true
  | .call _ => true
  | .exit => true
  | .lddw _ _ => true
  | .ldxw _ _ _ => true
  | .ldxh _ _ _ => true
  | .ldxb _ _ _ => true
  | .ldxdw _ _ _ => true
  | .stw _ _ _ => true
  | .sth _ _ _ => true
  | .stb _ _ _ => true
  | .stdw _ _ _ => true
  | .stxw _ _ _ => true
  | .stxh _ _ _ => true
  | .stxb _ _ _ => true
  | .stxdw _ _ _ => true
  | .faultMode7 w => inRow w 0xe4 0xe0
  | .faultOp14Or15 w => inRow w 0xe4 0xe4
  | .modeAbs w => inRow w 0xe4 0x20
  | .modeInd w => inRow w 0xe4 0x40
  | .modeLen w => inRow w 0xe4 0x80
  | .modeMsh w => inRow w 0xe4 0xa0
  | .modeXadd w => inRow w 0xe4 0xc0
  | .noRule00 w => inRow w 0xff 0x00
  | .noRule08 w => inRow w 0xff 0x08
  | .noRule10 w => inRow w 0xff 0x10
  | .noRule60 w => inRow w 0xff 0x60
  | .noRule68 w => inRow w 0xff 0x68
  | .noRule70 w => inRow w 0xff 0x70
  | .noRule78 w => inRow w 0xff 0x78
  | .noRule01 w => inRow w 0xff 0x01
  | .noRule09 w => inRow w 0xff 0x09
  | .noRule11 w => inRow w 0xff 0x11
  | .noRule19 w => inRow w 0xff 0x19
  | .noRule02 w => inRow w 0xff 0x02
  | .noRule0a w => inRow w 0xff 0x0a
  | .noRule12 w => inRow w 0xff 0x12
  | .noRule1a w => inRow w 0xff 0x1a
  | .noRule03 w => inRow w 0xff 0x03
  | .noRule0b w => inRow w 0xff 0x0b
  | .noRule13 w => inRow w 0xff 0x13
  | .noRule1b w => inRow w 0xff 0x1b
  | .neg32X w => inRow w 0xff 0x8c
  | .negX w => inRow w 0xff 0x8f
  | .endWidthD4 w => inRow w 0xff 0xd4 && badEndWidth w
  | .endWidthDC w => inRow w 0xff 0xdc && badEndWidth w
  | .endWidthD7 w => inRow w 0xff 0xd7 && badEndWidth w
  | .endWidthDF w => inRow w 0xff 0xdf && badEndWidth w
  | .jaX w => inRow w 0xff 0x0d
  | .exitX w => inRow w 0xff 0x9d
  | .callX w => inRow w 0xff 0x8d
  | .ja32 w => inRow w 0xff 0x06
  | .ja32X w => inRow w 0xff 0x0e
  | .call32 w => inRow w 0xff 0x86
  | .call32X w => inRow w 0xff 0x8e
  | .exit32 w => inRow w 0xff 0x96
  | .exit32X w => inRow w 0xff 0x9e
  -- R234; the lowest src bit that is set names the row (log 14)
  | .callSrc1 w => inRow w 0x10ff 0x1085
  | .callSrc2 w => inRow w 0x30ff 0x2085
  | .callSrc4 w => inRow w 0x70ff 0x4085
  | .callSrc8 w => inRow w 0xf0ff 0x8085

end Sys2Proof
end

