-- ==== Sys2Proof/Decode.lean ====
section
/-! DEFINITION. The decoder (spec/30_encoding.md R70 to R87), total on every list of words, and after it the
encoder. The decoder goes in the spec's two stages: the opcode byte gives a tag (R80), and the tag with the word's
fields gives the instruction (R85). -/

namespace Sys2Proof

/-! ### Fields of a word (R70) -/

/-- The opcode byte `w[7:0]`. -/
def opcodeByte (w : Word) : BitVec 8 := w.extractLsb' 0 8

/-- `dst`, `w[11:8]`. -/
def dstField (w : Word) : Reg := (w.extractLsb' 8 4).toFin

/-- `src`, `w[15:12]`. -/
def srcField (w : Word) : Reg := (w.extractLsb' 12 4).toFin

/-- `off`, `w[31:16]`, read signed where it is used (R82). -/
def offField (w : Word) : BitVec 16 := w.extractLsb' 16 16

/-- `imm`, `w[63:32]`, read signed or unsigned where it is used (R82). -/
def immField (w : Word) : BitVec 32 := w.extractLsb' 32 32

/-! ### Field values (R72 to R77; the numbers are the spec's, log 1) -/

/-- The four memory classes, `cls` 0 to 3 (R72). -/
inductive MemClass where
  | ld | ldx | st | stx
  deriving DecidableEq, Repr

/-- The size field (R73). -/
inductive Size where
  | w | h | b | dw
  deriving DecidableEq, Repr

/-- The addressing mode field (R74). -/
inductive Mode where
  | imm | abs | ind | mem | len | msh | xadd
  deriving DecidableEq, Repr

/-- The operation width of a class: 32 bits for ALU and JMP32, 64 bits for ALU64 and JMP (R100, R101, R160). -/
inductive Width where
  | w32 | w64
  deriving DecidableEq, Repr

/-- The source kind (R75). -/
inductive SrcKind where
  | k | x
  deriving DecidableEq, Repr

/-- The ALU operation (R76); `byteOrder` is END. -/
inductive AluOp where
  | add | sub | mul | div | or | and | lsh | rsh | neg | mod | xor | mov | arsh | byteOrder
  deriving DecidableEq, Repr

/-- The jump operation (R77). -/
inductive JmpOp where
  | ja | jeq | jgt | jge | jset | jne | jsgt | jsge | call | exit | jlt | jle | jslt | jsle
  deriving DecidableEq, Repr

/-- `sz = w[4:3]` (R73). -/
def sizeField (b : BitVec 8) : Size :=
  match (b.extractLsb' 3 2).toNat with
  | 0 => .w
  | 1 => .h
  | 2 => .b
  | _ => .dw

/-- `md = w[7:5]`; the value 7 names no mode (R74). -/
def modeField (b : BitVec 8) : Option Mode :=
  match (b.extractLsb' 5 3).toNat with
  | 0 => some .imm
  | 1 => some .abs
  | 2 => some .ind
  | 3 => some .mem
  | 4 => some .len
  | 5 => some .msh
  | 6 => some .xadd
  | _ => none

/-- `s = w[3]` (R75). -/
def srcKindField (b : BitVec 8) : SrcKind :=
  if b.getLsbD 3 then .x else .k

/-- `op = w[7:4]` of the ALU classes; 14 and 15 name no operation (R76). -/
def aluOpField (b : BitVec 8) : Option AluOp :=
  match (b.extractLsb' 4 4).toNat with
  | 0 => some .add
  | 1 => some .sub
  | 2 => some .mul
  | 3 => some .div
  | 4 => some .or
  | 5 => some .and
  | 6 => some .lsh
  | 7 => some .rsh
  | 8 => some .neg
  | 9 => some .mod
  | 10 => some .xor
  | 11 => some .mov
  | 12 => some .arsh
  | 13 => some .byteOrder
  | _ => none

/-- `op = w[7:4]` of the jump classes; 14 and 15 name no operation (R77). -/
def jmpOpField (b : BitVec 8) : Option JmpOp :=
  match (b.extractLsb' 4 4).toNat with
  | 0 => some .ja
  | 1 => some .jeq
  | 2 => some .jgt
  | 3 => some .jge
  | 4 => some .jset
  | 5 => some .jne
  | 6 => some .jsgt
  | 7 => some .jsge
  | 8 => some .call
  | 9 => some .exit
  | 10 => some .jlt
  | 11 => some .jle
  | 12 => some .jslt
  | 13 => some .jsle
  | _ => none

/-! ### Stage one: the opcode byte (R80) -/

/-- What the opcode byte says: the class with its sub-fields, or one of the two decode faults of R81. -/
inductive Tag where
  /-- memory format (R71) -/
  | mem (cls : MemClass) (md : Mode) (sz : Size)
  /-- arithmetic format, classes ALU and ALU64 (R71) -/
  | alu (width : Width) (op : AluOp) (s : SrcKind)
  /-- jump format, classes JMP and JMP32 (R71) -/
  | jmp (width : Width) (op : JmpOp) (s : SrcKind)
  /-- DecodeFault: a memory class with `md = 7` (R81) -/
  | badMode
  /-- DecodeFault: an ALU or jump class with `op` 14 or 15 (R81) -/
  | badOp
  deriving DecidableEq, Repr

/-- The memory format of R80. -/
def memTag (cls : MemClass) (b : BitVec 8) : Tag :=
  match modeField b with
  | some md => .mem cls md (sizeField b)
  | none => .badMode

/-- The arithmetic format of R80. -/
def aluTag (width : Width) (b : BitVec 8) : Tag :=
  match aluOpField b with
  | some op => .alu width op (srcKindField b)
  | none => .badOp

/-- The jump format of R80. -/
def jmpTag (width : Width) (b : BitVec 8) : Tag :=
  match jmpOpField b with
  | some op => .jmp width op (srcKindField b)
  | none => .badOp

/-- The decoder of R80 on the opcode byte; all eight classes are defined (R72). -/
def tagOf (b : BitVec 8) : Tag :=
  match (b.extractLsb' 0 3).toNat with
  | 0 => memTag .ld b
  | 1 => memTag .ldx b
  | 2 => memTag .st b
  | 3 => memTag .stx b
  | 4 => aluTag .w32 b
  | 5 => jmpTag .w64 b
  | 6 => jmpTag .w32 b
  | _ => aluTag .w64 b

/-! ### Stage two: the instruction (R85) -/

/-- END: the immediate is the width (R78); another width is its own row (R136). -/
def endInstr (i16 i32 i64 : Reg → Instr) (bad : Word → Instr) (w : Word) : Instr :=
  if immField w = 16 then i16 (dstField w)
  else if immField w = 32 then i32 (dstField w)
  else if immField w = 64 then i64 (dstField w)
  else bad w

/-- CALL with s = K: `src` must be 0 (R230, R234). Where several src bits are set the lowest names the row (log 14). -/
def callInstr (w : Word) : Instr :=
  if w.getLsbD 12 then .callSrc1 w
  else if w.getLsbD 13 then .callSrc2 w
  else if w.getLsbD 14 then .callSrc4 w
  else if w.getLsbD 15 then .callSrc8 w
  else .call (immField w)

/-- The memory classes (R85, first table). `w2` is the following word, used by LDDW alone (R84). -/
def memInstr (w w2 : Word) : MemClass → Mode → Size → Instr
  | _, .abs, _ => .modeAbs w
  | _, .ind, _ => .modeInd w
  | _, .len, _ => .modeLen w
  | _, .msh, _ => .modeMsh w
  | _, .xadd, _ => .modeXadd w
  | .ld, .imm, .dw => .lddw (dstField w) (immField w2 ++ immField w)
  | .ld, .imm, .w => .noRule00 w
  | .ld, .imm, .h => .noRule08 w
  | .ld, .imm, .b => .noRule10 w
  | .ld, .mem, .w => .noRule60 w
  | .ld, .mem, .h => .noRule68 w
  | .ld, .mem, .b => .noRule70 w
  | .ld, .mem, .dw => .noRule78 w
  | .ldx, .imm, .w => .noRule01 w
  | .ldx, .imm, .h => .noRule09 w
  | .ldx, .imm, .b => .noRule11 w
  | .ldx, .imm, .dw => .noRule19 w
  | .ldx, .mem, .w => .ldxw (dstField w) (srcField w) (offField w)
  | .ldx, .mem, .h => .ldxh (dstField w) (srcField w) (offField w)
  | .ldx, .mem, .b => .ldxb (dstField w) (srcField w) (offField w)
  | .ldx, .mem, .dw => .ldxdw (dstField w) (srcField w) (offField w)
  | .st, .imm, .w => .noRule02 w
  | .st, .imm, .h => .noRule0a w
  | .st, .imm, .b => .noRule12 w
  | .st, .imm, .dw => .noRule1a w
  | .st, .mem, .w => .stw (dstField w) (offField w) (immField w)
  | .st, .mem, .h => .sth (dstField w) (offField w) (immField w)
  | .st, .mem, .b => .stb (dstField w) (offField w) (immField w)
  | .st, .mem, .dw => .stdw (dstField w) (offField w) (immField w)
  | .stx, .imm, .w => .noRule03 w
  | .stx, .imm, .h => .noRule0b w
  | .stx, .imm, .b => .noRule13 w
  | .stx, .imm, .dw => .noRule1b w
  | .stx, .mem, .w => .stxw (dstField w) (offField w) (srcField w)
  | .stx, .mem, .h => .stxh (dstField w) (offField w) (srcField w)
  | .stx, .mem, .b => .stxb (dstField w) (offField w) (srcField w)
  | .stx, .mem, .dw => .stxdw (dstField w) (offField w) (srcField w)

/-- The ALU classes (R85, second table). -/
def aluInstr (w : Word) : Width → AluOp → SrcKind → Instr
  | .w32, .add, .k => .add32K (dstField w) (immField w)
  | .w32, .add, .x => .add32X (dstField w) (srcField w)
  | .w32, .sub, .k => .sub32K (dstField w) (immField w)
  | .w32, .sub, .x => .sub32X (dstField w) (srcField w)
  | .w32, .mul, .k => .mul32K (dstField w) (immField w)
  | .w32, .mul, .x => .mul32X (dstField w) (srcField w)
  | .w32, .div, .k => .div32K (dstField w) (immField w)
  | .w32, .div, .x => .div32X (dstField w) (srcField w)
  | .w32, .or, .k => .or32K (dstField w) (immField w)
  | .w32, .or, .x => .or32X (dstField w) (srcField w)
  | .w32, .and, .k => .and32K (dstField w) (immField w)
  | .w32, .and, .x => .and32X (dstField w) (srcField w)
  | .w32, .lsh, .k => .lsh32K (dstField w) (immField w)
  | .w32, .lsh, .x => .lsh32X (dstField w) (srcField w)
  | .w32, .rsh, .k => .rsh32K (dstField w) (immField w)
  | .w32, .rsh, .x => .rsh32X (dstField w) (srcField w)
  | .w32, .neg, .k => .neg32 (dstField w)
  | .w32, .neg, .x => .neg32X w
  | .w32, .mod, .k => .mod32K (dstField w) (immField w)
  | .w32, .mod, .x => .mod32X (dstField w) (srcField w)
  | .w32, .xor, .k => .xor32K (dstField w) (immField w)
  | .w32, .xor, .x => .xor32X (dstField w) (srcField w)
  | .w32, .mov, .k => .mov32K (dstField w) (immField w)
  | .w32, .mov, .x => .mov32X (dstField w) (srcField w)
  | .w32, .arsh, .k => .arsh32K (dstField w) (immField w)
  | .w32, .arsh, .x => .arsh32X (dstField w) (srcField w)
  | .w32, .byteOrder, .k => endInstr .le16 .le32 .le64 .endWidthD4 w
  | .w32, .byteOrder, .x => endInstr .be16 .be32 .be64 .endWidthDC w
  | .w64, .add, .k => .addK (dstField w) (immField w)
  | .w64, .add, .x => .addX (dstField w) (srcField w)
  | .w64, .sub, .k => .subK (dstField w) (immField w)
  | .w64, .sub, .x => .subX (dstField w) (srcField w)
  | .w64, .mul, .k => .mulK (dstField w) (immField w)
  | .w64, .mul, .x => .mulX (dstField w) (srcField w)
  | .w64, .div, .k => .divK (dstField w) (immField w)
  | .w64, .div, .x => .divX (dstField w) (srcField w)
  | .w64, .or, .k => .orK (dstField w) (immField w)
  | .w64, .or, .x => .orX (dstField w) (srcField w)
  | .w64, .and, .k => .andK (dstField w) (immField w)
  | .w64, .and, .x => .andX (dstField w) (srcField w)
  | .w64, .lsh, .k => .lshK (dstField w) (immField w)
  | .w64, .lsh, .x => .lshX (dstField w) (srcField w)
  | .w64, .rsh, .k => .rshK (dstField w) (immField w)
  | .w64, .rsh, .x => .rshX (dstField w) (srcField w)
  | .w64, .neg, .k => .neg (dstField w)
  | .w64, .neg, .x => .negX w
  | .w64, .mod, .k => .modK (dstField w) (immField w)
  | .w64, .mod, .x => .modX (dstField w) (srcField w)
  | .w64, .xor, .k => .xorK (dstField w) (immField w)
  | .w64, .xor, .x => .xorX (dstField w) (srcField w)
  | .w64, .mov, .k => .movK (dstField w) (immField w)
  | .w64, .mov, .x => .movX (dstField w) (srcField w)
  | .w64, .arsh, .k => .arshK (dstField w) (immField w)
  | .w64, .arsh, .x => .arshX (dstField w) (srcField w)
  | .w64, .byteOrder, .k => endInstr .le16Alu64 .le32Alu64 .le64Alu64 .endWidthD7 w
  | .w64, .byteOrder, .x => endInstr .be16Alu64 .be32Alu64 .be64Alu64 .endWidthDF w

/-- The jump classes (R85, second table). -/
def jmpInstr (w : Word) : Width → JmpOp → SrcKind → Instr
  | .w64, .ja, .k => .ja (offField w)
  | .w64, .ja, .x => .jaX w
  | .w64, .jeq, .k => .jeqK (dstField w) (immField w) (offField w)
  | .w64, .jeq, .x => .jeqX (dstField w) (srcField w) (offField w)
  | .w64, .jgt, .k => .jgtK (dstField w) (immField w) (offField w)
  | .w64, .jgt, .x => .jgtX (dstField w) (srcField w) (offField w)
  | .w64, .jge, .k => .jgeK (dstField w) (immField w) (offField w)
  | .w64, .jge, .x => .jgeX (dstField w) (srcField w) (offField w)
  | .w64, .jset, .k => .jsetK (dstField w) (immField w) (offField w)
  | .w64, .jset, .x => .jsetX (dstField w) (srcField w) (offField w)
  | .w64, .jne, .k => .jneK (dstField w) (immField w) (offField w)
  | .w64, .jne, .x => .jneX (dstField w) (srcField w) (offField w)
  | .w64, .jsgt, .k => .jsgtK (dstField w) (immField w) (offField w)
  | .w64, .jsgt, .x => .jsgtX (dstField w) (srcField w) (offField w)
  | .w64, .jsge, .k => .jsgeK (dstField w) (immField w) (offField w)
  | .w64, .jsge, .x => .jsgeX (dstField w) (srcField w) (offField w)
  | .w64, .call, .k => callInstr w
  | .w64, .call, .x => .callX w
  | .w64, .exit, .k => .exit
  | .w64, .exit, .x => .exitX w
  | .w64, .jlt, .k => .jltK (dstField w) (immField w) (offField w)
  | .w64, .jlt, .x => .jltX (dstField w) (srcField w) (offField w)
  | .w64, .jle, .k => .jleK (dstField w) (immField w) (offField w)
  | .w64, .jle, .x => .jleX (dstField w) (srcField w) (offField w)
  | .w64, .jslt, .k => .jsltK (dstField w) (immField w) (offField w)
  | .w64, .jslt, .x => .jsltX (dstField w) (srcField w) (offField w)
  | .w64, .jsle, .k => .jsleK (dstField w) (immField w) (offField w)
  | .w64, .jsle, .x => .jsleX (dstField w) (srcField w) (offField w)
  | .w32, .ja, .k => .ja32 w
  | .w32, .ja, .x => .ja32X w
  | .w32, .jeq, .k => .jeq32K (dstField w) (immField w) (offField w)
  | .w32, .jeq, .x => .jeq32X (dstField w) (srcField w) (offField w)
  | .w32, .jgt, .k => .jgt32K (dstField w) (immField w) (offField w)
  | .w32, .jgt, .x => .jgt32X (dstField w) (srcField w) (offField w)
  | .w32, .jge, .k => .jge32K (dstField w) (immField w) (offField w)
  | .w32, .jge, .x => .jge32X (dstField w) (srcField w) (offField w)
  | .w32, .jset, .k => .jset32K (dstField w) (immField w) (offField w)
  | .w32, .jset, .x => .jset32X (dstField w) (srcField w) (offField w)
  | .w32, .jne, .k => .jne32K (dstField w) (immField w) (offField w)
  | .w32, .jne, .x => .jne32X (dstField w) (srcField w) (offField w)
  | .w32, .jsgt, .k => .jsgt32K (dstField w) (immField w) (offField w)
  | .w32, .jsgt, .x => .jsgt32X (dstField w) (srcField w) (offField w)
  | .w32, .jsge, .k => .jsge32K (dstField w) (immField w) (offField w)
  | .w32, .jsge, .x => .jsge32X (dstField w) (srcField w) (offField w)
  | .w32, .call, .k => .call32 w
  | .w32, .call, .x => .call32X w
  | .w32, .exit, .k => .exit32 w
  | .w32, .exit, .x => .exit32X w
  | .w32, .jlt, .k => .jlt32K (dstField w) (immField w) (offField w)
  | .w32, .jlt, .x => .jlt32X (dstField w) (srcField w) (offField w)
  | .w32, .jle, .k => .jle32K (dstField w) (immField w) (offField w)
  | .w32, .jle, .x => .jle32X (dstField w) (srcField w) (offField w)
  | .w32, .jslt, .k => .jslt32K (dstField w) (immField w) (offField w)
  | .w32, .jslt, .x => .jslt32X (dstField w) (srcField w) (offField w)
  | .w32, .jsle, .k => .jsle32K (dstField w) (immField w) (offField w)
  | .w32, .jsle, .x => .jsle32X (dstField w) (srcField w) (offField w)

/-- The instruction of a tag and the words it stands in. -/
def instrOf (t : Tag) (w w2 : Word) : Instr :=
  match t with
  | .mem cls md sz => memInstr w w2 cls md sz
  | .alu width op s => aluInstr w width op s
  | .jmp width op s => jmpInstr w width op s
  | .badMode => .faultMode7 w
  | .badOp => .faultOp14Or15 w

/-- Two slots if the opcode byte is 0x18, otherwise one (R84). -/
def isWide (w : Word) : Bool := opcodeByte w == 0x18

/-- Why a list of words is not an instruction. -/
inductive DecodeError where
  /-- there is no word at all -/
  | noWord
  /-- the wide-immediate load's second slot is missing (R84) -/
  | secondSlotMissing
  deriving DecidableEq, Repr

/-- The instruction at the head of a list of words. Every 64-bit word is an instruction of exactly one row (R80, R85);
a word after the instruction is not looked at (R84). -/
def decode : List Word → Except DecodeError Instr
  | [] => .error .noWord
  | w :: rest =>
    if isWide w then
      match rest with
      | [] => .error .secondSlotMissing
      | w2 :: _ => .ok (instrOf (tagOf (opcodeByte w)) w w2)
    else .ok (instrOf (tagOf (opcodeByte w)) w 0)

/-- The little-endian reading of eight bytes (R79). -/
def wordOfBytes (b0 b1 b2 b3 b4 b5 b6 b7 : Byte) : Word :=
  b7 ++ (b6 ++ (b5 ++ (b4 ++ (b3 ++ (b2 ++ (b1 ++ b0))))))

/-- A program stored as bytes, as words (R79); bytes short of a whole word at the end are no word. -/
def wordsOfBytes : List Byte → List Word
  | b0 :: b1 :: b2 :: b3 :: b4 :: b5 :: b6 :: b7 :: rest =>
    wordOfBytes b0 b1 b2 b3 b4 b5 b6 b7 :: wordsOfBytes rest
  | _ => []

/-- The instruction at the head of a list of bytes (R79). -/
def decodeBytes (bs : List Byte) : Except DecodeError Instr := decode (wordsOfBytes bs)

/-- The instruction the decoder reads from an instruction whose bits are `w`, bit 0 the least significant bit of the
first word; bits from `nbits` up are 0. -/
def decodeTableWord (nbits w : Nat) : Option Instr :=
  match decode [BitVec.ofNat 64 (w % 2 ^ nbits), BitVec.ofNat 64 (w % 2 ^ nbits / 2 ^ 64)] with
  | .ok i => some i
  | .error _ => none

/-! ### The encoder -/

/-- A word of the fields of R70. -/
def pack (op : BitVec 8) (dst src : Reg) (off : BitVec 16) (imm : BitVec 32) : Word :=
  imm ++ (off ++ (BitVec.ofFin (w := 4) src ++ (BitVec.ofFin (w := 4) dst ++ op)))

/-- The words of an instruction. Fields it does not use are 0 (R87, log 19). -/
def encode : Instr → List Word
  | .add32K dst imm => [pack 0x04 dst 0 0 imm]
  | .add32X dst src => [pack 0x0c dst src 0 0]
  | .sub32K dst imm => [pack 0x14 dst 0 0 imm]
  | .sub32X dst src => [pack 0x1c dst src 0 0]
  | .mul32K dst imm => [pack 0x24 dst 0 0 imm]
  | .mul32X dst src => [pack 0x2c dst src 0 0]
  | .div32K dst imm => [pack 0x34 dst 0 0 imm]
  | .div32X dst src => [pack 0x3c dst src 0 0]
  | .or32K dst imm => [pack 0x44 dst 0 0 imm]
  | .or32X dst src => [pack 0x4c dst src 0 0]
  | .and32K dst imm => [pack 0x54 dst 0 0 imm]
  | .and32X dst src => [pack 0x5c dst src 0 0]
  | .lsh32K dst imm => [pack 0x64 dst 0 0 imm]
  | .lsh32X dst src => [pack 0x6c dst src 0 0]
  | .rsh32K dst imm => [pack 0x74 dst 0 0 imm]
  | .rsh32X dst src => [pack 0x7c dst src 0 0]
  | .neg32 dst => [pack 0x84 dst 0 0 0]
  | .mod32K dst imm => [pack 0x94 dst 0 0 imm]
  | .mod32X dst src => [pack 0x9c dst src 0 0]
  | .xor32K dst imm => [pack 0xa4 dst 0 0 imm]
  | .xor32X dst src => [pack 0xac dst src 0 0]
  | .mov32K dst imm => [pack 0xb4 dst 0 0 imm]
  | .mov32X dst src => [pack 0xbc dst src 0 0]
  | .arsh32K dst imm => [pack 0xc4 dst 0 0 imm]
  | .arsh32X dst src => [pack 0xcc dst src 0 0]
  | .addK dst imm => [pack 0x07 dst 0 0 imm]
  | .addX dst src => [pack 0x0f dst src 0 0]
  | .subK dst imm => [pack 0x17 dst 0 0 imm]
  | .subX dst src => [pack 0x1f dst src 0 0]
  | .mulK dst imm => [pack 0x27 dst 0 0 imm]
  | .mulX dst src => [pack 0x2f dst src 0 0]
  | .divK dst imm => [pack 0x37 dst 0 0 imm]
  | .divX dst src => [pack 0x3f dst src 0 0]
  | .orK dst imm => [pack 0x47 dst 0 0 imm]
  | .orX dst src => [pack 0x4f dst src 0 0]
  | .andK dst imm => [pack 0x57 dst 0 0 imm]
  | .andX dst src => [pack 0x5f dst src 0 0]
  | .lshK dst imm => [pack 0x67 dst 0 0 imm]
  | .lshX dst src => [pack 0x6f dst src 0 0]
  | .rshK dst imm => [pack 0x77 dst 0 0 imm]
  | .rshX dst src => [pack 0x7f dst src 0 0]
  | .neg dst => [pack 0x87 dst 0 0 0]
  | .modK dst imm => [pack 0x97 dst 0 0 imm]
  | .modX dst src => [pack 0x9f dst src 0 0]
  | .xorK dst imm => [pack 0xa7 dst 0 0 imm]
  | .xorX dst src => [pack 0xaf dst src 0 0]
  | .movK dst imm => [pack 0xb7 dst 0 0 imm]
  | .movX dst src => [pack 0xbf dst src 0 0]
  | .arshK dst imm => [pack 0xc7 dst 0 0 imm]
  | .arshX dst src => [pack 0xcf dst src 0 0]
  | .le16 dst => [pack 0xd4 dst 0 0 16]
  | .le32 dst => [pack 0xd4 dst 0 0 32]
  | .le64 dst => [pack 0xd4 dst 0 0 64]
  | .be16 dst => [pack 0xdc dst 0 0 16]
  | .be32 dst => [pack 0xdc dst 0 0 32]
  | .be64 dst => [pack 0xdc dst 0 0 64]
  | .le16Alu64 dst => [pack 0xd7 dst 0 0 16]
  | .le32Alu64 dst => [pack 0xd7 dst 0 0 32]
  | .le64Alu64 dst => [pack 0xd7 dst 0 0 64]
  | .be16Alu64 dst => [pack 0xdf dst 0 0 16]
  | .be32Alu64 dst => [pack 0xdf dst 0 0 32]
  | .be64Alu64 dst => [pack 0xdf dst 0 0 64]
  | .ja off => [pack 0x05 0 0 off 0]
  | .jeqK dst imm off => [pack 0x15 dst 0 off imm]
  | .jeqX dst src off => [pack 0x1d dst src off 0]
  | .jgtK dst imm off => [pack 0x25 dst 0 off imm]
  | .jgtX dst src off => [pack 0x2d dst src off 0]
  | .jgeK dst imm off => [pack 0x35 dst 0 off imm]
  | .jgeX dst src off => [pack 0x3d dst src off 0]
  | .jsetK dst imm off => [pack 0x45 dst 0 off imm]
  | .jsetX dst src off => [pack 0x4d dst src off 0]
  | .jneK dst imm off => [pack 0x55 dst 0 off imm]
  | .jneX dst src off => [pack 0x5d dst src off 0]
  | .jsgtK dst imm off => [pack 0x65 dst 0 off imm]
  | .jsgtX dst src off => [pack 0x6d dst src off 0]
  | .jsgeK dst imm off => [pack 0x75 dst 0 off imm]
  | .jsgeX dst src off => [pack 0x7d dst src off 0]
  | .jltK dst imm off => [pack 0xa5 dst 0 off imm]
  | .jltX dst src off => [pack 0xad dst src off 0]
  | .jleK dst imm off => [pack 0xb5 dst 0 off imm]
  | .jleX dst src off => [pack 0xbd dst src off 0]
  | .jsltK dst imm off => [pack 0xc5 dst 0 off imm]
  | .jsltX dst src off => [pack 0xcd dst src off 0]
  | .jsleK dst imm off => [pack 0xd5 dst 0 off imm]
  | .jsleX dst src off => [pack 0xdd dst src off 0]
  | .jeq32K dst imm off => [pack 0x16 dst 0 off imm]
  | .jeq32X dst src off => [pack 0x1e dst src off 0]
  | .jgt32K dst imm off => [pack 0x26 dst 0 off imm]
  | .jgt32X dst src off => [pack 0x2e dst src off 0]
  | .jge32K dst imm off => [pack 0x36 dst 0 off imm]
  | .jge32X dst src off => [pack 0x3e dst src off 0]
  | .jset32K dst imm off => [pack 0x46 dst 0 off imm]
  | .jset32X dst src off => [pack 0x4e dst src off 0]
  | .jne32K dst imm off => [pack 0x56 dst 0 off imm]
  | .jne32X dst src off => [pack 0x5e dst src off 0]
  | .jsgt32K dst imm off => [pack 0x66 dst 0 off imm]
  | .jsgt32X dst src off => [pack 0x6e dst src off 0]
  | .jsge32K dst imm off => [pack 0x76 dst 0 off imm]
  | .jsge32X dst src off => [pack 0x7e dst src off 0]
  | .jlt32K dst imm off => [pack 0xa6 dst 0 off imm]
  | .jlt32X dst src off => [pack 0xae dst src off 0]
  | .jle32K dst imm off => [pack 0xb6 dst 0 off imm]
  | .jle32X dst src off => [pack 0xbe dst src off 0]
  | .jslt32K dst imm off => [pack 0xc6 dst 0 off imm]
  | .jslt32X dst src off => [pack 0xce dst src off 0]
  | .jsle32K dst imm off => [pack 0xd6 dst 0 off imm]
  | .jsle32X dst src off => [pack 0xde dst src off 0]
  | .call imm => [pack 0x85 0 0 0 imm]
  | .exit => [pack 0x95 0 0 0 0]
  | .lddw dst imm64 => [pack 0x18 dst 0 0 (imm64.setWidth 32), pack 0 0 0 0 (imm64.extractLsb' 32 32)]
  | .ldxw dst src off => [pack 0x61 dst src off 0]
  | .ldxh dst src off => [pack 0x69 dst src off 0]
  | .ldxb dst src off => [pack 0x71 dst src off 0]
  | .ldxdw dst src off => [pack 0x79 dst src off 0]
  | .stw dst off imm => [pack 0x62 dst 0 off imm]
  | .sth dst off imm => [pack 0x6a dst 0 off imm]
  | .stb dst off imm => [pack 0x72 dst 0 off imm]
  | .stdw dst off imm => [pack 0x7a dst 0 off imm]
  | .stxw dst off src => [pack 0x63 dst src off 0]
  | .stxh dst off src => [pack 0x6b dst src off 0]
  | .stxb dst off src => [pack 0x73 dst src off 0]
  | .stxdw dst off src => [pack 0x7b dst src off 0]
  | .faultMode7 w => [w]
  | .faultOp14Or15 w => [w]
  | .modeAbs w => [w]
  | .modeInd w => [w]
  | .modeLen w => [w]
  | .modeMsh w => [w]
  | .modeXadd w => [w]
  | .noRule00 w => [w]
  | .noRule08 w => [w]
  | .noRule10 w => [w]
  | .noRule60 w => [w]
  | .noRule68 w => [w]
  | .noRule70 w => [w]
  | .noRule78 w => [w]
  | .noRule01 w => [w]
  | .noRule09 w => [w]
  | .noRule11 w => [w]
  | .noRule19 w => [w]
  | .noRule02 w => [w]
  | .noRule0a w => [w]
  | .noRule12 w => [w]
  | .noRule1a w => [w]
  | .noRule03 w => [w]
  | .noRule0b w => [w]
  | .noRule13 w => [w]
  | .noRule1b w => [w]
  | .neg32X w => [w]
  | .negX w => [w]
  | .endWidthD4 w => [w]
  | .endWidthDC w => [w]
  | .endWidthD7 w => [w]
  | .endWidthDF w => [w]
  | .jaX w => [w]
  | .exitX w => [w]
  | .callX w => [w]
  | .ja32 w => [w]
  | .ja32X w => [w]
  | .call32 w => [w]
  | .call32X w => [w]
  | .exit32 w => [w]
  | .exit32X w => [w]
  | .callSrc1 w => [w]
  | .callSrc2 w => [w]
  | .callSrc4 w => [w]
  | .callSrc8 w => [w]

end Sys2Proof
end

