-- ==== Sys2Proof/Machine/Illegal.lean ====
section
/-! DEFINITION. The encodings that end the run in Aborted (spec/30_encoding.md R81, R86; spec/60_exceptions.md R240): each takes
the abort of R241, a next state. -/

namespace Sys2Proof.Machine

/-- decode fault: memory class, mode 7 (R81). -/
def execFaultMode7 (w : Word) (s : State) : Out :=
  raise .decodeFault w s

/-- decode fault: ALU/JMP class, op 14 or 15 (R81). -/
def execFaultOp14Or15 (w : Word) (s : State) : Out :=
  raise .decodeFault w s

/-- mode ABS, any memory class and size (R216). -/
def execModeAbs (w : Word) (s : State) : Out :=
  raise .unsupportedAddressingMode w s

/-- mode IND, any memory class and size (R216). -/
def execModeInd (w : Word) (s : State) : Out :=
  raise .unsupportedAddressingMode w s

/-- mode LEN, any memory class and size (R216). -/
def execModeLen (w : Word) (s : State) : Out :=
  raise .unsupportedAddressingMode w s

/-- mode MSH, any memory class and size (R216). -/
def execModeMsh (w : Word) (s : State) : Out :=
  raise .unsupportedAddressingMode w s

/-- mode XADD, any memory class and size (R217). -/
def execModeXadd (w : Word) (s : State) : Out :=
  raise .unimplementedOpcode w s

/-- opcode 0x00: no rule (R218). -/
def execNoRule00 (w : Word) (s : State) : Out :=
  raise .unimplementedOpcode w s

/-- opcode 0x08: no rule (R218). -/
def execNoRule08 (w : Word) (s : State) : Out :=
  raise .unimplementedOpcode w s

/-- opcode 0x10: no rule (R218). -/
def execNoRule10 (w : Word) (s : State) : Out :=
  raise .unimplementedOpcode w s

/-- opcode 0x60: no rule (R218). -/
def execNoRule60 (w : Word) (s : State) : Out :=
  raise .unimplementedOpcode w s

/-- opcode 0x68: no rule (R218). -/
def execNoRule68 (w : Word) (s : State) : Out :=
  raise .unimplementedOpcode w s

/-- opcode 0x70: no rule (R218). -/
def execNoRule70 (w : Word) (s : State) : Out :=
  raise .unimplementedOpcode w s

/-- opcode 0x78: no rule (R218). -/
def execNoRule78 (w : Word) (s : State) : Out :=
  raise .unimplementedOpcode w s

/-- opcode 0x01: no rule (R218). -/
def execNoRule01 (w : Word) (s : State) : Out :=
  raise .unimplementedOpcode w s

/-- opcode 0x09: no rule (R218). -/
def execNoRule09 (w : Word) (s : State) : Out :=
  raise .unimplementedOpcode w s

/-- opcode 0x11: no rule (R218). -/
def execNoRule11 (w : Word) (s : State) : Out :=
  raise .unimplementedOpcode w s

/-- opcode 0x19: no rule (R218). -/
def execNoRule19 (w : Word) (s : State) : Out :=
  raise .unimplementedOpcode w s

/-- opcode 0x02: no rule (R218). -/
def execNoRule02 (w : Word) (s : State) : Out :=
  raise .unimplementedOpcode w s

/-- opcode 0x0a: no rule (R218). -/
def execNoRule0a (w : Word) (s : State) : Out :=
  raise .unimplementedOpcode w s

/-- opcode 0x12: no rule (R218). -/
def execNoRule12 (w : Word) (s : State) : Out :=
  raise .unimplementedOpcode w s

/-- opcode 0x1a: no rule (R218). -/
def execNoRule1a (w : Word) (s : State) : Out :=
  raise .unimplementedOpcode w s

/-- opcode 0x03: no rule (R218). -/
def execNoRule03 (w : Word) (s : State) : Out :=
  raise .unimplementedOpcode w s

/-- opcode 0x0b: no rule (R218). -/
def execNoRule0b (w : Word) (s : State) : Out :=
  raise .unimplementedOpcode w s

/-- opcode 0x13: no rule (R218). -/
def execNoRule13 (w : Word) (s : State) : Out :=
  raise .unimplementedOpcode w s

/-- opcode 0x1b: no rule (R218). -/
def execNoRule1b (w : Word) (s : State) : Out :=
  raise .unimplementedOpcode w s

/-- neg32 with s = X, opcode 0x8c (R137). -/
def execNeg32X (w : Word) (s : State) : Out :=
  raise .unimplementedOpcode w s

/-- neg with s = X, opcode 0x8f (R137). -/
def execNegX (w : Word) (s : State) : Out :=
  raise .unimplementedOpcode w s

/-- END opcode 0xd4 with imm not 16, 32 or 64 (R136). -/
def execEndWidthD4 (w : Word) (s : State) : Out :=
  raise .invalidOperand ((immField w).signExtend 64) s

/-- END opcode 0xdc with imm not 16, 32 or 64 (R136). -/
def execEndWidthDC (w : Word) (s : State) : Out :=
  raise .invalidOperand ((immField w).signExtend 64) s

/-- END opcode 0xd7 with imm not 16, 32 or 64 (R136). -/
def execEndWidthD7 (w : Word) (s : State) : Out :=
  raise .invalidOperand ((immField w).signExtend 64) s

/-- END opcode 0xdf with imm not 16, 32 or 64 (R136). -/
def execEndWidthDF (w : Word) (s : State) : Out :=
  raise .invalidOperand ((immField w).signExtend 64) s

/-- ja with s = X, opcode 0x0d (R188). -/
def execJaX (w : Word) (s : State) : Out :=
  raise .unimplementedOpcode w s

/-- exit with s = X, opcode 0x9d (R188). -/
def execExitX (w : Word) (s : State) : Out :=
  raise .unimplementedOpcode w s

/-- call with s = X, opcode 0x8d (R188). -/
def execCallX (w : Word) (s : State) : Out :=
  raise .unimplementedOpcode w s

/-- JMP32 ja, opcode 0x06 (R188). -/
def execJa32 (w : Word) (s : State) : Out :=
  raise .unimplementedOpcode w s

/-- JMP32 ja, s = X, opcode 0x0e (R188). -/
def execJa32X (w : Word) (s : State) : Out :=
  raise .unimplementedOpcode w s

/-- JMP32 call, opcode 0x86 (R188). -/
def execCall32 (w : Word) (s : State) : Out :=
  raise .unimplementedOpcode w s

/-- JMP32 call, s = X, opcode 0x8e (R188). -/
def execCall32X (w : Word) (s : State) : Out :=
  raise .unimplementedOpcode w s

/-- JMP32 exit, opcode 0x96 (R188). -/
def execExit32 (w : Word) (s : State) : Out :=
  raise .unimplementedOpcode w s

/-- JMP32 exit, s = X, opcode 0x9e (R188). -/
def execExit32X (w : Word) (s : State) : Out :=
  raise .unimplementedOpcode w s

/-- call with src != 0, src bit 0x1 set (R234). -/
def execCallSrc1 (w : Word) (s : State) : Out :=
  raise .unimplementedOpcode w s

/-- call with src != 0, src bit 0x2 set (R234). -/
def execCallSrc2 (w : Word) (s : State) : Out :=
  raise .unimplementedOpcode w s

/-- call with src != 0, src bit 0x4 set (R234). -/
def execCallSrc4 (w : Word) (s : State) : Out :=
  raise .unimplementedOpcode w s

/-- call with src != 0, src bit 0x8 set (R234). -/
def execCallSrc8 (w : Word) (s : State) : Out :=
  raise .unimplementedOpcode w s

end Sys2Proof.Machine
end

