-- ==== Sys2Proof/Machine/Jump.lean ====
section
/-! DEFINITION. The JMP instructions but CALL, on 64-bit operands (spec/41_jump.md R160 to R187). -/

namespace Sys2Proof.Machine

/-- `ja +off` (R164). -/
def execJa (off : BitVec 16) (s : State) : Out :=
  .next (s.setPc (jumpTarget s off))

/-- `jeq dst, imm, +off` (R165). -/
def execJeqK (dst : Reg) (imm : BitVec 32) (off : BitVec 16) (s : State) : Out :=
  branch (condEq (s.reg dst) (opnd64K imm)) off s

/-- `jeq dst, src, +off` (R165). -/
def execJeqX (dst : Reg) (src : Reg) (off : BitVec 16) (s : State) : Out :=
  branch (condEq (s.reg dst) (opnd64X s src)) off s

/-- `jgt dst, imm, +off` (R167). -/
def execJgtK (dst : Reg) (imm : BitVec 32) (off : BitVec 16) (s : State) : Out :=
  branch (condGt (s.reg dst) (opnd64K imm)) off s

/-- `jgt dst, src, +off` (R167). -/
def execJgtX (dst : Reg) (src : Reg) (off : BitVec 16) (s : State) : Out :=
  branch (condGt (s.reg dst) (opnd64X s src)) off s

/-- `jge dst, imm, +off` (R169). -/
def execJgeK (dst : Reg) (imm : BitVec 32) (off : BitVec 16) (s : State) : Out :=
  branch (condGe (s.reg dst) (opnd64K imm)) off s

/-- `jge dst, src, +off` (R169). -/
def execJgeX (dst : Reg) (src : Reg) (off : BitVec 16) (s : State) : Out :=
  branch (condGe (s.reg dst) (opnd64X s src)) off s

/-- `jset dst, imm, +off` (R171). -/
def execJsetK (dst : Reg) (imm : BitVec 32) (off : BitVec 16) (s : State) : Out :=
  branch (condSet (s.reg dst) (opnd64K imm)) off s

/-- `jset dst, src, +off` (R171). -/
def execJsetX (dst : Reg) (src : Reg) (off : BitVec 16) (s : State) : Out :=
  branch (condSet (s.reg dst) (opnd64X s src)) off s

/-- `jne dst, imm, +off` (R173). -/
def execJneK (dst : Reg) (imm : BitVec 32) (off : BitVec 16) (s : State) : Out :=
  branch (condNe (s.reg dst) (opnd64K imm)) off s

/-- `jne dst, src, +off` (R173). -/
def execJneX (dst : Reg) (src : Reg) (off : BitVec 16) (s : State) : Out :=
  branch (condNe (s.reg dst) (opnd64X s src)) off s

/-- `jsgt dst, imm, +off` (R175). -/
def execJsgtK (dst : Reg) (imm : BitVec 32) (off : BitVec 16) (s : State) : Out :=
  branch (condSgt (s.reg dst) (opnd64K imm)) off s

/-- `jsgt dst, src, +off` (R175). -/
def execJsgtX (dst : Reg) (src : Reg) (off : BitVec 16) (s : State) : Out :=
  branch (condSgt (s.reg dst) (opnd64X s src)) off s

/-- `jsge dst, imm, +off` (R177). -/
def execJsgeK (dst : Reg) (imm : BitVec 32) (off : BitVec 16) (s : State) : Out :=
  branch (condSge (s.reg dst) (opnd64K imm)) off s

/-- `jsge dst, src, +off` (R177). -/
def execJsgeX (dst : Reg) (src : Reg) (off : BitVec 16) (s : State) : Out :=
  branch (condSge (s.reg dst) (opnd64X s src)) off s

/-- `jlt dst, imm, +off` (R179). -/
def execJltK (dst : Reg) (imm : BitVec 32) (off : BitVec 16) (s : State) : Out :=
  branch (condLt (s.reg dst) (opnd64K imm)) off s

/-- `jlt dst, src, +off` (R179). -/
def execJltX (dst : Reg) (src : Reg) (off : BitVec 16) (s : State) : Out :=
  branch (condLt (s.reg dst) (opnd64X s src)) off s

/-- `jle dst, imm, +off` (R181). -/
def execJleK (dst : Reg) (imm : BitVec 32) (off : BitVec 16) (s : State) : Out :=
  branch (condLe (s.reg dst) (opnd64K imm)) off s

/-- `jle dst, src, +off` (R181). -/
def execJleX (dst : Reg) (src : Reg) (off : BitVec 16) (s : State) : Out :=
  branch (condLe (s.reg dst) (opnd64X s src)) off s

/-- `jslt dst, imm, +off` (R183). -/
def execJsltK (dst : Reg) (imm : BitVec 32) (off : BitVec 16) (s : State) : Out :=
  branch (condSlt (s.reg dst) (opnd64K imm)) off s

/-- `jslt dst, src, +off` (R183). -/
def execJsltX (dst : Reg) (src : Reg) (off : BitVec 16) (s : State) : Out :=
  branch (condSlt (s.reg dst) (opnd64X s src)) off s

/-- `jsle dst, imm, +off` (R185). -/
def execJsleK (dst : Reg) (imm : BitVec 32) (off : BitVec 16) (s : State) : Out :=
  branch (condSle (s.reg dst) (opnd64K imm)) off s

/-- `jsle dst, src, +off` (R185). -/
def execJsleX (dst : Reg) (src : Reg) (off : BitVec 16) (s : State) : Out :=
  branch (condSle (s.reg dst) (opnd64X s src)) off s

/-- `exit` (R187). -/
def execExit (s : State) : Out :=
  terminate (s.reg 0) .exit s

end Sys2Proof.Machine
end

