-- ==== Sys2Proof/Machine/Jump32.lean ====
section
/-! DEFINITION. The JMP32 instructions, on 32-bit operands (spec/41_jump.md R160 to R187). -/

namespace Sys2Proof.Machine

/-- `jeq32 dst, imm, +off` (R166). -/
def execJeq32K (dst : Reg) (imm : BitVec 32) (off : BitVec 16) (s : State) : Out :=
  branch (condEq (low32 s dst) (opnd32K imm)) off s

/-- `jeq32 dst, src, +off` (R166). -/
def execJeq32X (dst : Reg) (src : Reg) (off : BitVec 16) (s : State) : Out :=
  branch (condEq (low32 s dst) (opnd32X s src)) off s

/-- `jgt32 dst, imm, +off` (R168). -/
def execJgt32K (dst : Reg) (imm : BitVec 32) (off : BitVec 16) (s : State) : Out :=
  branch (condGt (low32 s dst) (opnd32K imm)) off s

/-- `jgt32 dst, src, +off` (R168). -/
def execJgt32X (dst : Reg) (src : Reg) (off : BitVec 16) (s : State) : Out :=
  branch (condGt (low32 s dst) (opnd32X s src)) off s

/-- `jge32 dst, imm, +off` (R170). -/
def execJge32K (dst : Reg) (imm : BitVec 32) (off : BitVec 16) (s : State) : Out :=
  branch (condGe (low32 s dst) (opnd32K imm)) off s

/-- `jge32 dst, src, +off` (R170). -/
def execJge32X (dst : Reg) (src : Reg) (off : BitVec 16) (s : State) : Out :=
  branch (condGe (low32 s dst) (opnd32X s src)) off s

/-- `jset32 dst, imm, +off` (R172). -/
def execJset32K (dst : Reg) (imm : BitVec 32) (off : BitVec 16) (s : State) : Out :=
  branch (condSet (low32 s dst) (opnd32K imm)) off s

/-- `jset32 dst, src, +off` (R172). -/
def execJset32X (dst : Reg) (src : Reg) (off : BitVec 16) (s : State) : Out :=
  branch (condSet (low32 s dst) (opnd32X s src)) off s

/-- `jne32 dst, imm, +off` (R174). -/
def execJne32K (dst : Reg) (imm : BitVec 32) (off : BitVec 16) (s : State) : Out :=
  branch (condNe (low32 s dst) (opnd32K imm)) off s

/-- `jne32 dst, src, +off` (R174). -/
def execJne32X (dst : Reg) (src : Reg) (off : BitVec 16) (s : State) : Out :=
  branch (condNe (low32 s dst) (opnd32X s src)) off s

/-- `jsgt32 dst, imm, +off` (R176). -/
def execJsgt32K (dst : Reg) (imm : BitVec 32) (off : BitVec 16) (s : State) : Out :=
  branch (condSgt (low32 s dst) (opnd32K imm)) off s

/-- `jsgt32 dst, src, +off` (R176). -/
def execJsgt32X (dst : Reg) (src : Reg) (off : BitVec 16) (s : State) : Out :=
  branch (condSgt (low32 s dst) (opnd32X s src)) off s

/-- `jsge32 dst, imm, +off` (R178). -/
def execJsge32K (dst : Reg) (imm : BitVec 32) (off : BitVec 16) (s : State) : Out :=
  branch (condSge (low32 s dst) (opnd32K imm)) off s

/-- `jsge32 dst, src, +off` (R178). -/
def execJsge32X (dst : Reg) (src : Reg) (off : BitVec 16) (s : State) : Out :=
  branch (condSge (low32 s dst) (opnd32X s src)) off s

/-- `jlt32 dst, imm, +off` (R180). -/
def execJlt32K (dst : Reg) (imm : BitVec 32) (off : BitVec 16) (s : State) : Out :=
  branch (condLt (low32 s dst) (opnd32K imm)) off s

/-- `jlt32 dst, src, +off` (R180). -/
def execJlt32X (dst : Reg) (src : Reg) (off : BitVec 16) (s : State) : Out :=
  branch (condLt (low32 s dst) (opnd32X s src)) off s

/-- `jle32 dst, imm, +off` (R182). -/
def execJle32K (dst : Reg) (imm : BitVec 32) (off : BitVec 16) (s : State) : Out :=
  branch (condLe (low32 s dst) (opnd32K imm)) off s

/-- `jle32 dst, src, +off` (R182). -/
def execJle32X (dst : Reg) (src : Reg) (off : BitVec 16) (s : State) : Out :=
  branch (condLe (low32 s dst) (opnd32X s src)) off s

/-- `jslt32 dst, imm, +off` (R184). -/
def execJslt32K (dst : Reg) (imm : BitVec 32) (off : BitVec 16) (s : State) : Out :=
  branch (condSlt (low32 s dst) (opnd32K imm)) off s

/-- `jslt32 dst, src, +off` (R184). -/
def execJslt32X (dst : Reg) (src : Reg) (off : BitVec 16) (s : State) : Out :=
  branch (condSlt (low32 s dst) (opnd32X s src)) off s

/-- `jsle32 dst, imm, +off` (R186). -/
def execJsle32K (dst : Reg) (imm : BitVec 32) (off : BitVec 16) (s : State) : Out :=
  branch (condSle (low32 s dst) (opnd32K imm)) off s

/-- `jsle32 dst, src, +off` (R186). -/
def execJsle32X (dst : Reg) (src : Reg) (off : BitVec 16) (s : State) : Out :=
  branch (condSle (low32 s dst) (opnd32X s src)) off s

end Sys2Proof.Machine
end

