-- ==== Sys2Proof/Machine/LoadStore.lean ====
section
/-! DEFINITION. Loads and stores (spec/42_load_store.md R200 to R215). -/

namespace Sys2Proof.Machine

/-- `lddw dst, imm64` (R200): no memory access, two slots. -/
def execLddw (dst : Reg) (imm64 : BitVec 64) (s : State) : Out :=
  .next ((s.setReg dst imm64).advance 2)

/-- `ldxw dst, [src+off]` (R202). -/
def execLdxw (dst : Reg) (src : Reg) (off : BitVec 16) (s : State) : Out :=
  load 4 dst src off s

/-- `ldxh dst, [src+off]` (R203). -/
def execLdxh (dst : Reg) (src : Reg) (off : BitVec 16) (s : State) : Out :=
  load 2 dst src off s

/-- `ldxb dst, [src+off]` (R204). -/
def execLdxb (dst : Reg) (src : Reg) (off : BitVec 16) (s : State) : Out :=
  load 1 dst src off s

/-- `ldxdw dst, [src+off]` (R205). -/
def execLdxdw (dst : Reg) (src : Reg) (off : BitVec 16) (s : State) : Out :=
  load 8 dst src off s

/-- `stw [dst+off], imm` (R207). -/
def execStw (dst : Reg) (off : BitVec 16) (imm : BitVec 32) (s : State) : Out :=
  store 4 dst off (imm.signExtend 64) s

/-- `sth [dst+off], imm` (R208). -/
def execSth (dst : Reg) (off : BitVec 16) (imm : BitVec 32) (s : State) : Out :=
  store 2 dst off (imm.signExtend 64) s

/-- `stb [dst+off], imm` (R209). -/
def execStb (dst : Reg) (off : BitVec 16) (imm : BitVec 32) (s : State) : Out :=
  store 1 dst off (imm.signExtend 64) s

/-- `stdw [dst+off], imm` (R210). -/
def execStdw (dst : Reg) (off : BitVec 16) (imm : BitVec 32) (s : State) : Out :=
  store 8 dst off (imm.signExtend 64) s

/-- `stxw [dst+off], src` (R212). -/
def execStxw (dst : Reg) (off : BitVec 16) (src : Reg) (s : State) : Out :=
  store 4 dst off (s.reg src) s

/-- `stxh [dst+off], src` (R213). -/
def execStxh (dst : Reg) (off : BitVec 16) (src : Reg) (s : State) : Out :=
  store 2 dst off (s.reg src) s

/-- `stxb [dst+off], src` (R214). -/
def execStxb (dst : Reg) (off : BitVec 16) (src : Reg) (s : State) : Out :=
  store 1 dst off (s.reg src) s

/-- `stxdw [dst+off], src` (R215). -/
def execStxdw (dst : Reg) (off : BitVec 16) (src : Reg) (s : State) : Out :=
  store 8 dst off (s.reg src) s

end Sys2Proof.Machine
end

