-- ==== Sys2Proof/Machine/Dispatch.lean ====
section
/-! DEFINITION. The meaning of each instruction: one arm per constructor. -/

namespace Sys2Proof.Machine

/-- The effect of one instruction on a state whose `pc` is the instruction's own slot `pc_i` (R31 part 6, log 2). -/
def exec (i : Instr) (s : State) : Host.Outcome State Fault Refusal :=
  match i with
  | .add32K dst imm => Sys2Proof.Machine.execAdd32K dst imm s
  | .add32X dst src => Sys2Proof.Machine.execAdd32X dst src s
  | .sub32K dst imm => Sys2Proof.Machine.execSub32K dst imm s
  | .sub32X dst src => Sys2Proof.Machine.execSub32X dst src s
  | .mul32K dst imm => Sys2Proof.Machine.execMul32K dst imm s
  | .mul32X dst src => Sys2Proof.Machine.execMul32X dst src s
  | .div32K dst imm => Sys2Proof.Machine.execDiv32K dst imm s
  | .div32X dst src => Sys2Proof.Machine.execDiv32X dst src s
  | .or32K dst imm => Sys2Proof.Machine.execOr32K dst imm s
  | .or32X dst src => Sys2Proof.Machine.execOr32X dst src s
  | .and32K dst imm => Sys2Proof.Machine.execAnd32K dst imm s
  | .and32X dst src => Sys2Proof.Machine.execAnd32X dst src s
  | .lsh32K dst imm => Sys2Proof.Machine.execLsh32K dst imm s
  | .lsh32X dst src => Sys2Proof.Machine.execLsh32X dst src s
  | .rsh32K dst imm => Sys2Proof.Machine.execRsh32K dst imm s
  | .rsh32X dst src => Sys2Proof.Machine.execRsh32X dst src s
  | .neg32 dst => Sys2Proof.Machine.execNeg32 dst s
  | .mod32K dst imm => Sys2Proof.Machine.execMod32K dst imm s
  | .mod32X dst src => Sys2Proof.Machine.execMod32X dst src s
  | .xor32K dst imm => Sys2Proof.Machine.execXor32K dst imm s
  | .xor32X dst src => Sys2Proof.Machine.execXor32X dst src s
  | .mov32K dst imm => Sys2Proof.Machine.execMov32K dst imm s
  | .mov32X dst src => Sys2Proof.Machine.execMov32X dst src s
  | .arsh32K dst imm => Sys2Proof.Machine.execArsh32K dst imm s
  | .arsh32X dst src => Sys2Proof.Machine.execArsh32X dst src s
  | .addK dst imm => Sys2Proof.Machine.execAddK dst imm s
  | .addX dst src => Sys2Proof.Machine.execAddX dst src s
  | .subK dst imm => Sys2Proof.Machine.execSubK dst imm s
  | .subX dst src => Sys2Proof.Machine.execSubX dst src s
  | .mulK dst imm => Sys2Proof.Machine.execMulK dst imm s
  | .mulX dst src => Sys2Proof.Machine.execMulX dst src s
  | .divK dst imm => Sys2Proof.Machine.execDivK dst imm s
  | .divX dst src => Sys2Proof.Machine.execDivX dst src s
  | .orK dst imm => Sys2Proof.Machine.execOrK dst imm s
  | .orX dst src => Sys2Proof.Machine.execOrX dst src s
  | .andK dst imm => Sys2Proof.Machine.execAndK dst imm s
  | .andX dst src => Sys2Proof.Machine.execAndX dst src s
  | .lshK dst imm => Sys2Proof.Machine.execLshK dst imm s
  | .lshX dst src => Sys2Proof.Machine.execLshX dst src s
  | .rshK dst imm => Sys2Proof.Machine.execRshK dst imm s
  | .rshX dst src => Sys2Proof.Machine.execRshX dst src s
  | .neg dst => Sys2Proof.Machine.execNeg dst s
  | .modK dst imm => Sys2Proof.Machine.execModK dst imm s
  | .modX dst src => Sys2Proof.Machine.execModX dst src s
  | .xorK dst imm => Sys2Proof.Machine.execXorK dst imm s
  | .xorX dst src => Sys2Proof.Machine.execXorX dst src s
  | .movK dst imm => Sys2Proof.Machine.execMovK dst imm s
  | .movX dst src => Sys2Proof.Machine.execMovX dst src s
  | .arshK dst imm => Sys2Proof.Machine.execArshK dst imm s
  | .arshX dst src => Sys2Proof.Machine.execArshX dst src s
  | .le16 dst => Sys2Proof.Machine.execLe16 dst s
  | .le32 dst => Sys2Proof.Machine.execLe32 dst s
  | .le64 dst => Sys2Proof.Machine.execLe64 dst s
  | .be16 dst => Sys2Proof.Machine.execBe16 dst s
  | .be32 dst => Sys2Proof.Machine.execBe32 dst s
  | .be64 dst => Sys2Proof.Machine.execBe64 dst s
  | .le16Alu64 dst => Sys2Proof.Machine.execLe16Alu64 dst s
  | .le32Alu64 dst => Sys2Proof.Machine.execLe32Alu64 dst s
  | .le64Alu64 dst => Sys2Proof.Machine.execLe64Alu64 dst s
  | .be16Alu64 dst => Sys2Proof.Machine.execBe16Alu64 dst s
  | .be32Alu64 dst => Sys2Proof.Machine.execBe32Alu64 dst s
  | .be64Alu64 dst => Sys2Proof.Machine.execBe64Alu64 dst s
  | .ja off => Sys2Proof.Machine.execJa off s
  | .jeqK dst imm off => Sys2Proof.Machine.execJeqK dst imm off s
  | .jeqX dst src off => Sys2Proof.Machine.execJeqX dst src off s
  | .jgtK dst imm off => Sys2Proof.Machine.execJgtK dst imm off s
  | .jgtX dst src off => Sys2Proof.Machine.execJgtX dst src off s
  | .jgeK dst imm off => Sys2Proof.Machine.execJgeK dst imm off s
  | .jgeX dst src off => Sys2Proof.Machine.execJgeX dst src off s
  | .jsetK dst imm off => Sys2Proof.Machine.execJsetK dst imm off s
  | .jsetX dst src off => Sys2Proof.Machine.execJsetX dst src off s
  | .jneK dst imm off => Sys2Proof.Machine.execJneK dst imm off s
  | .jneX dst src off => Sys2Proof.Machine.execJneX dst src off s
  | .jsgtK dst imm off => Sys2Proof.Machine.execJsgtK dst imm off s
  | .jsgtX dst src off => Sys2Proof.Machine.execJsgtX dst src off s
  | .jsgeK dst imm off => Sys2Proof.Machine.execJsgeK dst imm off s
  | .jsgeX dst src off => Sys2Proof.Machine.execJsgeX dst src off s
  | .jltK dst imm off => Sys2Proof.Machine.execJltK dst imm off s
  | .jltX dst src off => Sys2Proof.Machine.execJltX dst src off s
  | .jleK dst imm off => Sys2Proof.Machine.execJleK dst imm off s
  | .jleX dst src off => Sys2Proof.Machine.execJleX dst src off s
  | .jsltK dst imm off => Sys2Proof.Machine.execJsltK dst imm off s
  | .jsltX dst src off => Sys2Proof.Machine.execJsltX dst src off s
  | .jsleK dst imm off => Sys2Proof.Machine.execJsleK dst imm off s
  | .jsleX dst src off => Sys2Proof.Machine.execJsleX dst src off s
  | .jeq32K dst imm off => Sys2Proof.Machine.execJeq32K dst imm off s
  | .jeq32X dst src off => Sys2Proof.Machine.execJeq32X dst src off s
  | .jgt32K dst imm off => Sys2Proof.Machine.execJgt32K dst imm off s
  | .jgt32X dst src off => Sys2Proof.Machine.execJgt32X dst src off s
  | .jge32K dst imm off => Sys2Proof.Machine.execJge32K dst imm off s
  | .jge32X dst src off => Sys2Proof.Machine.execJge32X dst src off s
  | .jset32K dst imm off => Sys2Proof.Machine.execJset32K dst imm off s
  | .jset32X dst src off => Sys2Proof.Machine.execJset32X dst src off s
  | .jne32K dst imm off => Sys2Proof.Machine.execJne32K dst imm off s
  | .jne32X dst src off => Sys2Proof.Machine.execJne32X dst src off s
  | .jsgt32K dst imm off => Sys2Proof.Machine.execJsgt32K dst imm off s
  | .jsgt32X dst src off => Sys2Proof.Machine.execJsgt32X dst src off s
  | .jsge32K dst imm off => Sys2Proof.Machine.execJsge32K dst imm off s
  | .jsge32X dst src off => Sys2Proof.Machine.execJsge32X dst src off s
  | .jlt32K dst imm off => Sys2Proof.Machine.execJlt32K dst imm off s
  | .jlt32X dst src off => Sys2Proof.Machine.execJlt32X dst src off s
  | .jle32K dst imm off => Sys2Proof.Machine.execJle32K dst imm off s
  | .jle32X dst src off => Sys2Proof.Machine.execJle32X dst src off s
  | .jslt32K dst imm off => Sys2Proof.Machine.execJslt32K dst imm off s
  | .jslt32X dst src off => Sys2Proof.Machine.execJslt32X dst src off s
  | .jsle32K dst imm off => Sys2Proof.Machine.execJsle32K dst imm off s
  | .jsle32X dst src off => Sys2Proof.Machine.execJsle32X dst src off s
  | .call imm => Sys2Proof.Machine.execCall imm s
  | .exit => Sys2Proof.Machine.execExit s
  | .lddw dst imm64 => Sys2Proof.Machine.execLddw dst imm64 s
  | .ldxw dst src off => Sys2Proof.Machine.execLdxw dst src off s
  | .ldxh dst src off => Sys2Proof.Machine.execLdxh dst src off s
  | .ldxb dst src off => Sys2Proof.Machine.execLdxb dst src off s
  | .ldxdw dst src off => Sys2Proof.Machine.execLdxdw dst src off s
  | .stw dst off imm => Sys2Proof.Machine.execStw dst off imm s
  | .sth dst off imm => Sys2Proof.Machine.execSth dst off imm s
  | .stb dst off imm => Sys2Proof.Machine.execStb dst off imm s
  | .stdw dst off imm => Sys2Proof.Machine.execStdw dst off imm s
  | .stxw dst off src => Sys2Proof.Machine.execStxw dst off src s
  | .stxh dst off src => Sys2Proof.Machine.execStxh dst off src s
  | .stxb dst off src => Sys2Proof.Machine.execStxb dst off src s
  | .stxdw dst off src => Sys2Proof.Machine.execStxdw dst off src s
  | .faultMode7 w => Sys2Proof.Machine.execFaultMode7 w s
  | .faultOp14Or15 w => Sys2Proof.Machine.execFaultOp14Or15 w s
  | .modeAbs w => Sys2Proof.Machine.execModeAbs w s
  | .modeInd w => Sys2Proof.Machine.execModeInd w s
  | .modeLen w => Sys2Proof.Machine.execModeLen w s
  | .modeMsh w => Sys2Proof.Machine.execModeMsh w s
  | .modeXadd w => Sys2Proof.Machine.execModeXadd w s
  | .noRule00 w => Sys2Proof.Machine.execNoRule00 w s
  | .noRule08 w => Sys2Proof.Machine.execNoRule08 w s
  | .noRule10 w => Sys2Proof.Machine.execNoRule10 w s
  | .noRule60 w => Sys2Proof.Machine.execNoRule60 w s
  | .noRule68 w => Sys2Proof.Machine.execNoRule68 w s
  | .noRule70 w => Sys2Proof.Machine.execNoRule70 w s
  | .noRule78 w => Sys2Proof.Machine.execNoRule78 w s
  | .noRule01 w => Sys2Proof.Machine.execNoRule01 w s
  | .noRule09 w => Sys2Proof.Machine.execNoRule09 w s
  | .noRule11 w => Sys2Proof.Machine.execNoRule11 w s
  | .noRule19 w => Sys2Proof.Machine.execNoRule19 w s
  | .noRule02 w => Sys2Proof.Machine.execNoRule02 w s
  | .noRule0a w => Sys2Proof.Machine.execNoRule0a w s
  | .noRule12 w => Sys2Proof.Machine.execNoRule12 w s
  | .noRule1a w => Sys2Proof.Machine.execNoRule1a w s
  | .noRule03 w => Sys2Proof.Machine.execNoRule03 w s
  | .noRule0b w => Sys2Proof.Machine.execNoRule0b w s
  | .noRule13 w => Sys2Proof.Machine.execNoRule13 w s
  | .noRule1b w => Sys2Proof.Machine.execNoRule1b w s
  | .neg32X w => Sys2Proof.Machine.execNeg32X w s
  | .negX w => Sys2Proof.Machine.execNegX w s
  | .endWidthD4 w => Sys2Proof.Machine.execEndWidthD4 w s
  | .endWidthDC w => Sys2Proof.Machine.execEndWidthDC w s
  | .endWidthD7 w => Sys2Proof.Machine.execEndWidthD7 w s
  | .endWidthDF w => Sys2Proof.Machine.execEndWidthDF w s
  | .jaX w => Sys2Proof.Machine.execJaX w s
  | .exitX w => Sys2Proof.Machine.execExitX w s
  | .callX w => Sys2Proof.Machine.execCallX w s
  | .ja32 w => Sys2Proof.Machine.execJa32 w s
  | .ja32X w => Sys2Proof.Machine.execJa32X w s
  | .call32 w => Sys2Proof.Machine.execCall32 w s
  | .call32X w => Sys2Proof.Machine.execCall32X w s
  | .exit32 w => Sys2Proof.Machine.execExit32 w s
  | .exit32X w => Sys2Proof.Machine.execExit32X w s
  | .callSrc1 w => Sys2Proof.Machine.execCallSrc1 w s
  | .callSrc2 w => Sys2Proof.Machine.execCallSrc2 w s
  | .callSrc4 w => Sys2Proof.Machine.execCallSrc4 w s
  | .callSrc8 w => Sys2Proof.Machine.execCallSrc8 w s

end Sys2Proof.Machine
end

