-- ==== Sys2Proof/Machine/Fetch.lean ====
section
/-! DEFINITION. Fetching an instruction (spec/10_state.md R31, R33) and the step budget (spec/60_exceptions.md R262). -/

namespace Sys2Proof.Machine

/-- `Prog[p]`, if `0 <= p < N` (R33). -/
def State.slot (s : State) (p : Int) : Option Word := if 0 ≤ p then s.prog[p.toNat]? else none

/-- What a fetch finds. -/
inductive Fetched where
  /-- an instruction -/
  | instr (i : Instr)
  /-- slot `p` is outside the program (R33) -/
  | outside (p : Int)
  deriving DecidableEq, Repr

/-- Fetch and decode at the pc; a wide-immediate load takes the next slot too (R31 parts 3 to 5). -/
def State.fetch (s : State) : Fetched :=
  match s.slot s.pc with
  | none => .outside s.pc
  | some w =>
    match decode (w :: (s.slot (s.pc + 1)).toList) with
    | .ok i => .instr i
    | .error _ => .outside (s.pc + 1)

/-- `raise PcOutOfRange(p)`: FAULT_INFO is `p` mod 2^64 (R33, R240). -/
def raisePcOutOfRange (p : Int) (s : State) : Out := raise .pcOutOfRange (BitVec.ofInt 64 p) s

/-- FUEL is set and `STEPS >= FUEL` (R262). -/
def State.budgetSpent (s : State) : Bool :=
  match s.params.fuel with
  | none => false
  | some f => decide (f ≤ s.steps)

/-- `STEPS <- STEPS + 1` (R262). -/
def State.countStep (s : State) : State := { s with steps := s.steps + 1 }

/-- `raise StepBudgetExhausted(STEPS)` (R262). STEPS is unbounded and FAULT_INFO has 64 bits (R35); the spec states no
reduction here, and taking STEPS mod 2^64 is the model's choice (DESIGN CHOICE, log 23). -/
def raiseStepBudget (s : State) : Out := raise .stepBudgetExhausted (BitVec.ofNat 64 s.steps) s

/-- The program with the words `ws` at slot `n`, padded with zero words up to it. -/
def placeWords (prog : List Word) (n : Nat) (ws : List Word) : List Word :=
  prog.take n ++ List.replicate (n - prog.length) 0 ++ ws ++ prog.drop (n + ws.length)

/-- The first two words of an instruction whose bits are `w`, zero from bit `nbits` up. -/
def tableWords (nbits w : Nat) : List Word :=
  [BitVec.ofNat 64 (w % 2 ^ nbits), BitVec.ofNat 64 (w % 2 ^ nbits / 2 ^ 64)]

end Sys2Proof.Machine
end

