-- ==== Sys2Proof/Machine/Start.lean ====
section
/-! DEFINITION. The start of an invocation (spec/70_reset_and_hazards.md R270 to R275, spec/10_state.md R41). -/

namespace Sys2Proof.Machine

/-- The two regions share no byte (R52). A region of length 0 has no byte (log 16). -/
def Region.disjoint (r q : Region) : Bool :=
  r.len == 0 || q.len == 0 || decide (r.base + r.len ≤ q.base) || decide (q.base + q.len ≤ r.base)

/-- The region does not wrap past 2^64 - 1 (R51, R52). -/
def Region.fits (r : Region) : Bool := decide (r.base + r.len ≤ Config.addressSpace)

/-- The regions are pairwise disjoint. -/
def pairwiseDisjoint : List Region → Bool
  | [] => true
  | r :: rs => rs.all r.disjoint && pairwiseDisjoint rs

/-- The host's duty (4) of R274: no region wraps, and all are pairwise disjoint. -/
def layoutOk (rs : List Region) : Bool := rs.all (·.fits) && pairwiseDisjoint rs

/-- The start contents the host fixes: bytes outside every region are not part of memory (log 16). -/
def fillMemory (rs : List Region) : List Host.Cell → Memory → Memory
  | [], m => m
  | c :: cs, m => fillMemory rs cs (if rs.any (·.covers c.1 1) then m.write c.1 c.2 else m)

/-- The state the start sequence leaves (R270). A stack byte the event does not fix is a fresh free draw (R271). -/
def started (e : StartEvent) (s : State) : State where
  regs := startRegs e.ctx (e.stackBase + s.params.stackSize)
  pc := 0
  status := .running
  result := 0
  termCause := .exit
  fault := .none
  faultPc := 0
  faultInfo := 0
  steps := 0
  mem := fillMemory (⟨e.stackBase, s.params.stackSize, true⟩ :: e.regions) e.contents []
  prog := e.prog
  helpers := e.helpers
  stackBase := e.stackBase
  regions := e.regions
  helperReq := none
  helperRsp := e.responses
  startIn := none
  params := s.params
  draw := s.draw + 1

/-- A start event: refused while Running (R41) and where the regions overlap or wrap (R274). -/
def start (e : StartEvent) (s : State) : Out :=
  if s.status = .running then .refused .startWhileRunning
  else if layoutOk (⟨e.stackBase, s.params.stackSize, true⟩ :: e.regions) then .next (started e s)
  else .refused .startBadRegions

/-- The core before the first start (R36, R273): Idle. The spec gives no value there but STATUS; zero registers and
STACK_BASE 0 are the model's choice, and no step reads them before a start replaces them (log 6). -/
def State.idle : State :=
  { State.reset with regs := Vector.replicate 16 0, status := .idle, stackBase := 0 }

/-- The host presents a start event (R40). -/
def State.presentStart (e : StartEvent) (s : State) : State := { s with startIn := some e }

end Sys2Proof.Machine
end

