-- ==== Sys2Proof/Machine/Step.lean ====
section
/-! DEFINITION. One step (spec/10_state.md R31, spec/60_exceptions.md R245). -/

namespace Sys2Proof.Machine

/-- The step of a Running core that waits for no helper: budget, fetch, decode, execute (R245 parts 2 to 8). -/
def runStep (s : State) : Out :=
  if s.budgetSpent then raiseStepBudget s
  else
    match s.countStep.fetch with
    | .instr i => exec i s.countStep
    | .outside p => raisePcOutOfRange p s.countStep

/-- One step. A start event at the port is taken or refused first (R41, log 5); a core that is not Running takes no
step (R31 part 1); a core that waits for a helper takes its answer (R231). -/
def step (s : State) : Host.Outcome State Fault Refusal :=
  match s.startIn with
  | some e => start e { s with startIn := none }
  | none =>
    if s.status = .running then
      match s.helperReq with
      | some q => resumeCall q s
      | none => runStep s
    else .fault .notRunning

/-- `s` with the instruction stored where `step` fetches next, and nothing in the way of its fetch: Running, no start
presented, no helper awaited, the pc not negative, the budget not spent (log 17). -/
def State.withFetchWord (s : State) (nbits w : Nat) : State :=
  { s with
    prog := placeWords s.prog s.pc.toNat (tableWords nbits w)
    pc := s.pc.toNat
    status := .running
    startIn := none
    helperReq := none
    params := { s.params with fuel := if s.budgetSpent then none else s.params.fuel } }

end Sys2Proof.Machine
end

