-- ==== Sys2Proof/Safety.lean ====
section
/-! DEFINITION. The terms claims use: frames, the ways an instruction can end, numbers read from words and memory
in plain arithmetic, reachability of bytes, and the invariant of a safe core. They are written from the spec's words,
not from the meanings. -/

namespace Sys2Proof.Machine

/-! ### Numbers -/

/-- The `n` bits of a word from bit `lo`, as a number (R8). -/
def bitsOf (w : Word) (lo n : Nat) : Nat := w.toNat / 2 ^ lo % 2 ^ n

/-- `sext_32` of a 32-bit number, as an unsigned 64-bit number (R9). -/
def sextNat (n : Nat) : Nat := if n < 2 ^ 31 then n else n + (2 ^ 64 - 2 ^ 32)

/-- The two's-complement value of an `n`-bit number (R9). -/
def signedOf (n a : Nat) : Int := if a < 2 ^ (n - 1) then (a : Int) else (a : Int) - 2 ^ n

/-- Byte `j` of a number, byte 0 the least significant. -/
def byteOf (v j : Nat) : Nat := v / 256 ^ j % 256

/-- `(base + sext_16(off)) mod 2^64` (R54). -/
def eaOf (s : State) (base : Reg) (off : BitVec 16) : Nat :=
  (((s.reg base).toNat + off.toInt) % 2 ^ 64).toNat

/-- The place of byte `i` of an `n`-byte value at rising addresses (R53). -/
def placeOf : ByteOrder → Nat → Nat → Nat
  | .little, _, i => i
  | .big, n, i => n - 1 - i

/-- The unsigned value of the `n` bytes at `a` (R53, R57). -/
def valueAt (s : State) (a n : Nat) : Nat :=
  ∑ i ∈ Finset.range n, (s.byteAt (a + i)).toNat * 256 ^ placeOf s.params.byteOrder n i

/-! ### Which bytes an access may touch (R51, R52, R55) -/

/-- The byte range lies inside the region. -/
def Within (r : Region) (a n : Nat) : Prop := r.base ≤ a ∧ a + n ≤ r.base + r.len

/-- The byte range lies inside the stack or inside one host region. -/
def Readable (s : State) (a n : Nat) : Prop :=
  Within ⟨s.stackBase, s.params.stackSize, true⟩ a n ∨ ∃ r ∈ s.regions, Within r a n

/-- The byte range lies inside the stack or inside one writable host region. -/
def Writable (s : State) (a n : Nat) : Prop :=
  Within ⟨s.stackBase, s.params.stackSize, true⟩ a n ∨ ∃ r ∈ s.regions, r.writable = true ∧ Within r a n

/-- The access is aligned, or need not be (R56). -/
def AlignedOrAllowed (s : State) (a n : Nat) : Prop := a % n = 0 ∨ s.params.allowMisaligned = true

/-! ### Frames -/

/-- The run-status registers of R35 are unchanged. -/
structure SameStatus (s t : State) : Prop where
  status : t.status = s.status
  result : t.result = s.result
  termCause : t.termCause = s.termCause
  fault : t.fault = s.fault
  faultPc : t.faultPc = s.faultPc
  faultInfo : t.faultInfo = s.faultInfo
  steps : t.steps = s.steps

/-- What the host supplied at start, and the parameters, are unchanged (R38, R235, R7). -/
structure SameSetting (s t : State) : Prop where
  prog : t.prog = s.prog
  helpers : t.helpers = s.helpers
  stackBase : t.stackBase = s.stackBase
  regions : t.regions = s.regions
  params : t.params = s.params
  draw : t.draw = s.draw

/-- The ports and the outstanding request are unchanged (R40). -/
structure SamePorts (s t : State) : Prop where
  helperReq : t.helperReq = s.helperReq
  helperRsp : t.helperRsp = s.helperRsp
  startIn : t.startIn = s.startIn

/-- Every register is unchanged. -/
def SameRegs (s t : State) : Prop := ∀ r, t.reg r = s.reg r

/-- Every byte of data memory reads as before. -/
def SameMemory (s t : State) : Prop := ∀ a, t.byteAt a = s.byteAt a

/-! ### What an instruction does, with its frame -/

/-- `exec i s` answers a next state in which `x[dst]` satisfies `P`, the pc has advanced by `n` slots, and nothing else
has changed. -/
def WritesRegBy (n : Nat) (i : Instr) (dst : Reg) (P : Nat → Prop) (s : State) : Prop :=
  ∃ t, exec i s = .next t ∧ P (t.reg dst).toNat ∧ t.pc = s.pc + n ∧ (∀ r, r ≠ dst → t.reg r = s.reg r) ∧
    SameMemory s t ∧ SameStatus s t ∧ SameSetting s t ∧ SamePorts s t

/-- `WritesRegBy` for a one-slot instruction and one value. -/
def WritesReg (i : Instr) (dst : Reg) (v : Nat) (s : State) : Prop := WritesRegBy 1 i dst (· = v) s

/-- `exec i s` answers a next state in which the pc is `pc_i + 1 + off` if `taken` and `pc_i + 1` if not, and nothing
else has changed. -/
def Jumps (i : Instr) (taken : Prop) (off : BitVec 16) (s : State) : Prop :=
  ∃ t, exec i s = .next t ∧ (taken → t.pc = s.pc + 1 + off.toInt) ∧ (¬taken → t.pc = s.pc + 1) ∧
    SameRegs s t ∧ SameMemory s t ∧ SameStatus s t ∧ SameSetting s t ∧ SamePorts s t

/-- `t` is `s` with the `n` bytes at `a` holding the low `n` bytes of `v` in the byte order of the core, the pc one
slot on, and nothing else changed. -/
def Stored (n a v : Nat) (s t : State) : Prop :=
  (∀ i, i < n → (t.byteAt (a + i)).toNat = byteOf v (placeOf s.params.byteOrder n i)) ∧
    (∀ x, x < a ∨ a + n ≤ x → t.byteAt x = s.byteAt x) ∧ t.pc = s.pc + 1 ∧
    SameRegs s t ∧ SameStatus s t ∧ SameSetting s t ∧ SamePorts s t

/-- `t` is `s` after `raise F(info)` (R241): the fault record is written and nothing else has changed. -/
structure AbortedFrom (f : FaultCode) (info : Nat) (s t : State) : Prop where
  status : t.status = .aborted
  fault : t.fault = f
  faultPc : t.faultPc = s.pc
  faultInfo : t.faultInfo.toNat = info
  result : t.result = 0
  pc : t.pc = s.pc
  regs : SameRegs s t
  memory : SameMemory s t
  termCause : t.termCause = s.termCause
  steps : t.steps = s.steps
  setting : SameSetting s t
  ports : SamePorts s t

/-- `exec i s` answers the state after `raise F(info)`. -/
def Aborts (i : Instr) (f : FaultCode) (info : Nat) (s : State) : Prop :=
  ∃ t, exec i s = .next t ∧ AbortedFrom f info s t

/-- `t` is `s` after `terminate(v)` (R244): the run is Terminated and no register or byte has changed. -/
structure TerminatedFrom (v : Word) (cause : TermCause) (s t : State) : Prop where
  status : t.status = .terminated
  result : t.result = v
  termCause : t.termCause = cause
  fault : t.fault = .none
  faultInfo : t.faultInfo = 0
  faultPc : t.faultPc = s.faultPc
  pc : t.pc = s.pc + 1
  regs : SameRegs s t
  memory : SameMemory s t
  steps : t.steps = s.steps
  setting : SameSetting s t
  ports : SamePorts s t

/-- `exec i s` answers the state after `terminate(v)`. -/
def Terminates (i : Instr) (v : Word) (cause : TermCause) (s : State) : Prop :=
  ∃ t, exec i s = .next t ∧ TerminatedFrom v cause s t

/-! ### Encodings -/

/-- The fields of a word, read in plain arithmetic at the places of R70. -/
structure Fields (w : Word) (op : Nat) (dst src : Reg) (off : BitVec 16) (imm : BitVec 32) : Prop where
  op : bitsOf w 0 8 = op
  dst : bitsOf w 8 4 = dst.val
  src : bitsOf w 12 4 = src.val
  off : bitsOf w 16 16 = off.toNat
  imm : bitsOf w 32 32 = imm.toNat

/-- Every word with the opcode byte `op` decodes to `c` of its fields, whatever follows it. -/
def DecodesAs (op : Nat) (c : Reg → Reg → BitVec 16 → BitVec 32 → Instr) : Prop :=
  ∀ w rest dst src off imm, Fields w op dst src off imm → decode (w :: rest) = .ok (c dst src off imm)

/-- Every word with the opcode byte `op` decodes to `c` of the word, which aborts with the word as its information
in every state. -/
def AbortsAs (op : Nat) (c : Word → Instr) (f : FaultCode) : Prop :=
  (∀ w rest, bitsOf w 0 8 = op → decode (w :: rest) = .ok (c w)) ∧ ∀ w s, Aborts (c w) f w.toNat s

/-! ### The shape of a family's rules, encoding included -/

/-- A class-4 operation with a K and an X form: `x[dst] <- f(x[dst][31:0], opnd32)`, a number below `2^32` (R100). -/
def AluRule32 (opK opX : Nat) (cK : Reg → BitVec 32 → Instr) (cX : Reg → Reg → Instr) (f : Nat → Nat → Nat) : Prop :=
  DecodesAs opK (fun dst _ _ imm => cK dst imm) ∧ DecodesAs opX (fun dst src _ _ => cX dst src) ∧
    ∀ (s : State) (dst : Reg),
      (∀ imm, WritesReg (cK dst imm) dst (f ((s.reg dst).toNat % 2 ^ 32) imm.toNat) s) ∧
      (∀ src, WritesReg (cX dst src) dst (f ((s.reg dst).toNat % 2 ^ 32) ((s.reg src).toNat % 2 ^ 32)) s)

/-- A class-7 operation with a K and an X form: `x[dst] <- f(x[dst], opnd64)` (R101). -/
def AluRule64 (opK opX : Nat) (cK : Reg → BitVec 32 → Instr) (cX : Reg → Reg → Instr) (f : Nat → Nat → Nat) : Prop :=
  DecodesAs opK (fun dst _ _ imm => cK dst imm) ∧ DecodesAs opX (fun dst src _ _ => cX dst src) ∧
    ∀ (s : State) (dst : Reg),
      (∀ imm, WritesReg (cK dst imm) dst (f (s.reg dst).toNat (sextNat imm.toNat)) s) ∧
      (∀ src, WritesReg (cX dst src) dst (f (s.reg dst).toNat (s.reg src).toNat) s)

/-- A division: by 0 it ends the run with result 0 (R103), else it writes `f(a, b)`. -/
def Divides (i : Instr) (dst : Reg) (f : Nat → Nat → Nat) (a b : Nat) (s : State) : Prop :=
  (b = 0 → Terminates i 0 .divideByZero s) ∧ (b ≠ 0 → WritesReg i dst (f a b) s)

/-- DIV or MOD in class ALU. -/
def DivRule32 (opK opX : Nat) (cK : Reg → BitVec 32 → Instr) (cX : Reg → Reg → Instr) (f : Nat → Nat → Nat) : Prop :=
  DecodesAs opK (fun dst _ _ imm => cK dst imm) ∧ DecodesAs opX (fun dst src _ _ => cX dst src) ∧
    ∀ (s : State) (dst : Reg),
      (∀ imm, Divides (cK dst imm) dst f ((s.reg dst).toNat % 2 ^ 32) imm.toNat s) ∧
      (∀ src, Divides (cX dst src) dst f ((s.reg dst).toNat % 2 ^ 32) ((s.reg src).toNat % 2 ^ 32) s)

/-- DIV or MOD in class ALU64. -/
def DivRule64 (opK opX : Nat) (cK : Reg → BitVec 32 → Instr) (cX : Reg → Reg → Instr) (f : Nat → Nat → Nat) : Prop :=
  DecodesAs opK (fun dst _ _ imm => cK dst imm) ∧ DecodesAs opX (fun dst src _ _ => cX dst src) ∧
    ∀ (s : State) (dst : Reg),
      (∀ imm, Divides (cK dst imm) dst f (s.reg dst).toNat (sextNat imm.toNat) s) ∧
      (∀ src, Divides (cX dst src) dst f (s.reg dst).toNat (s.reg src).toNat s)

/-- `v` is the width-`k`-bytes value of `old` zero-extended, its bytes reversed or not (R132). -/
def Reordered (reversed : Bool) (k old v : Nat) : Prop :=
  v < 256 ^ k ∧ ∀ j, j < k → byteOf v j = byteOf old (if reversed then k - 1 - j else j)

/-- END with one opcode byte: the immediate is the width, and another width aborts (R133 to R136). `swaps` says
whether the bytes are reversed on a core of this byte order. -/
def EndRule (op : Nat) (c16 c32 c64 : Reg → Instr) (bad : Word → Instr) (swaps : ByteOrder → Bool) : Prop :=
  (∀ w rest dst src off imm, Fields w op dst src off imm → decode (w :: rest) = .ok
    (if imm.toNat = 16 then c16 dst else if imm.toNat = 32 then c32 dst else if imm.toNat = 64 then c64 dst
      else bad w)) ∧
    ∀ (s : State),
      (∀ dst, WritesRegBy 1 (c16 dst) dst (Reordered (swaps s.params.byteOrder) 2 (s.reg dst).toNat) s ∧
        WritesRegBy 1 (c32 dst) dst (Reordered (swaps s.params.byteOrder) 4 (s.reg dst).toNat) s ∧
        WritesRegBy 1 (c64 dst) dst (Reordered (swaps s.params.byteOrder) 8 (s.reg dst).toNat) s) ∧
      (∀ w, Aborts (bad w) .invalidOperand (sextNat (bitsOf w 32 32)) s)

/-- A conditional jump of class JMP on 64-bit operands (R160, R163). -/
def JumpRule64 (opK opX : Nat) (cK : Reg → BitVec 32 → BitVec 16 → Instr) (cX : Reg → Reg → BitVec 16 → Instr)
    (cond : Nat → Nat → Prop) : Prop :=
  DecodesAs opK (fun dst _ off imm => cK dst imm off) ∧ DecodesAs opX (fun dst src off _ => cX dst src off) ∧
    ∀ (s : State) (dst : Reg) (off : BitVec 16),
      (∀ imm, Jumps (cK dst imm off) (cond (s.reg dst).toNat (sextNat imm.toNat)) off s) ∧
      (∀ src, Jumps (cX dst src off) (cond (s.reg dst).toNat (s.reg src).toNat) off s)

/-- A conditional jump of class JMP32 on 32-bit operands (R160, R163). -/
def JumpRule32 (opK opX : Nat) (cK : Reg → BitVec 32 → BitVec 16 → Instr) (cX : Reg → Reg → BitVec 16 → Instr)
    (cond : Nat → Nat → Prop) : Prop :=
  DecodesAs opK (fun dst _ off imm => cK dst imm off) ∧ DecodesAs opX (fun dst src off _ => cX dst src off) ∧
    ∀ (s : State) (dst : Reg) (off : BitVec 16),
      (∀ imm, Jumps (cK dst imm off) (cond ((s.reg dst).toNat % 2 ^ 32) imm.toNat) off s) ∧
      (∀ src, Jumps (cX dst src off) (cond ((s.reg dst).toNat % 2 ^ 32) ((s.reg src).toNat % 2 ^ 32)) off s)

/-- A load of `n` bytes with its checks in order (R201, R219). -/
def LoadRule (op n : Nat) (c : Reg → Reg → BitVec 16 → Instr) : Prop :=
  DecodesAs op (fun dst src off _ => c dst src off) ∧
    ∀ (s : State) (dst src : Reg) (off : BitVec 16),
      (¬Readable s (eaOf s src off) n → Aborts (c dst src off) .outOfBoundsMemoryAccess (eaOf s src off) s) ∧
      (Readable s (eaOf s src off) n → ¬AlignedOrAllowed s (eaOf s src off) n →
        Aborts (c dst src off) .misalignedAccess (eaOf s src off) s) ∧
      (Readable s (eaOf s src off) n → AlignedOrAllowed s (eaOf s src off) n →
        WritesReg (c dst src off) dst (valueAt s (eaOf s src off) n) s)

/-- The instruction stores the low `n` bytes of `v` at `x[dst] + off`, with its checks in order (R206, R211, R219). -/
def Stores (n : Nat) (i : Instr) (dst : Reg) (off : BitVec 16) (v : Nat) (s : State) : Prop :=
  (¬Writable s (eaOf s dst off) n → Aborts i .outOfBoundsMemoryAccess (eaOf s dst off) s) ∧
    (Writable s (eaOf s dst off) n → ¬AlignedOrAllowed s (eaOf s dst off) n →
      Aborts i .misalignedAccess (eaOf s dst off) s) ∧
    (Writable s (eaOf s dst off) n → AlignedOrAllowed s (eaOf s dst off) n →
      ∃ t, exec i s = .next t ∧ Stored n (eaOf s dst off) v s t)

/-- A store of an immediate (R206). -/
def StoreImmRule (op n : Nat) (c : Reg → BitVec 16 → BitVec 32 → Instr) : Prop :=
  DecodesAs op (fun dst _ off imm => c dst off imm) ∧
    ∀ (s : State) (dst : Reg) (off : BitVec 16) (imm : BitVec 32), Stores n (c dst off imm) dst off (sextNat imm.toNat) s

/-- A store of a register (R211). -/
def StoreRegRule (op n : Nat) (c : Reg → BitVec 16 → Reg → Instr) : Prop :=
  DecodesAs op (fun dst src off _ => c dst off src) ∧
    ∀ (s : State) (dst : Reg) (off : BitVec 16) (src : Reg), Stores n (c dst off src) dst off (s.reg src).toNat s

/-- The four loads with their widths in bytes. -/
def loadsByWidth : List (Nat × (Reg → Reg → BitVec 16 → Instr)) := [(4, .ldxw), (2, .ldxh), (1, .ldxb), (8, .ldxdw)]

/-- After the store `st` of the low `n` bytes of `v` at `x[base] + off`, a load of the same width from there gives
them, and on a little-endian core a narrower load gives the low-order ones (R53, R61). -/
def Reloads (n : Nat) (st : Instr) (base : Reg) (off : BitVec 16) (v : Nat) (s : State) : Prop :=
  ∀ m ld, (m, ld) ∈ loadsByWidth → m = n ∨ m < n ∧ s.params.byteOrder = .little →
    ∀ t dst, exec st s = .next t → t.status = .running → WritesReg (ld dst base off) dst (v % 256 ^ m) t

/-- A memory class with the addressing mode `md`, of any size, aborts with the word as its information (R216, R217). -/
def ModeRule (md : Nat) (c : Word → Instr) (f : FaultCode) : Prop :=
  (∀ w rest, bitsOf w 0 3 < 4 → bitsOf w 5 3 = md → decode (w :: rest) = .ok (c w)) ∧
    ∀ w s, Aborts (c w) f w.toNat s

/-! ### Whole-machine terms -/

/-- The divisor of a DIV or MOD as the instruction uses it (R103): of either width and either source kind. -/
def divisorOf (s : State) : Instr → Option Nat
  | .div32K _ imm | .mod32K _ imm => some imm.toNat
  | .div32X _ src | .mod32X _ src => some ((s.reg src).toNat % 2 ^ 32)
  | .divK _ imm | .modK _ imm => some (sextNat imm.toNat)
  | .divX _ src | .modX _ src => some (s.reg src).toNat
  | _ => none

/-- `t` is Terminated by `i`: EXIT with `x[0]`, or a DIV or MOD whose divisor is zero with 0 (R243, R244). -/
structure EndedBy (i : Instr) (s t : State) : Prop where
  fault : t.fault = .none
  faultInfo : t.faultInfo = 0
  cause : i = .exit ∧ t.result = s.reg 0 ∧ t.termCause = .exit ∨
    divisorOf s i = some 0 ∧ t.result = 0 ∧ t.termCause = .divideByZero

/-- The register an instruction may write (R22): `dst` of the ALU classes, of LDX and of LDDW, `x[0]` of CALL, and
none of the others. -/
def destOf : Instr → Option Reg
  | .add32K dst _ => some dst
  | .add32X dst _ => some dst
  | .sub32K dst _ => some dst
  | .sub32X dst _ => some dst
  | .mul32K dst _ => some dst
  | .mul32X dst _ => some dst
  | .div32K dst _ => some dst
  | .div32X dst _ => some dst
  | .or32K dst _ => some dst
  | .or32X dst _ => some dst
  | .and32K dst _ => some dst
  | .and32X dst _ => some dst
  | .lsh32K dst _ => some dst
  | .lsh32X dst _ => some dst
  | .rsh32K dst _ => some dst
  | .rsh32X dst _ => some dst
  | .neg32 dst => some dst
  | .mod32K dst _ => some dst
  | .mod32X dst _ => some dst
  | .xor32K dst _ => some dst
  | .xor32X dst _ => some dst
  | .mov32K dst _ => some dst
  | .mov32X dst _ => some dst
  | .arsh32K dst _ => some dst
  | .arsh32X dst _ => some dst
  | .addK dst _ => some dst
  | .addX dst _ => some dst
  | .subK dst _ => some dst
  | .subX dst _ => some dst
  | .mulK dst _ => some dst
  | .mulX dst _ => some dst
  | .divK dst _ => some dst
  | .divX dst _ => some dst
  | .orK dst _ => some dst
  | .orX dst _ => some dst
  | .andK dst _ => some dst
  | .andX dst _ => some dst
  | .lshK dst _ => some dst
  | .lshX dst _ => some dst
  | .rshK dst _ => some dst
  | .rshX dst _ => some dst
  | .neg dst => some dst
  | .modK dst _ => some dst
  | .modX dst _ => some dst
  | .xorK dst _ => some dst
  | .xorX dst _ => some dst
  | .movK dst _ => some dst
  | .movX dst _ => some dst
  | .arshK dst _ => some dst
  | .arshX dst _ => some dst
  | .le16 dst => some dst
  | .le32 dst => some dst
  | .le64 dst => some dst
  | .be16 dst => some dst
  | .be32 dst => some dst
  | .be64 dst => some dst
  | .le16Alu64 dst => some dst
  | .le32Alu64 dst => some dst
  | .le64Alu64 dst => some dst
  | .be16Alu64 dst => some dst
  | .be32Alu64 dst => some dst
  | .be64Alu64 dst => some dst
  | .call _ => some 0
  | .lddw dst _ => some dst
  | .ldxw dst _ _ => some dst
  | .ldxh dst _ _ => some dst
  | .ldxb dst _ _ => some dst
  | .ldxdw dst _ _ => some dst
  | _ => none

/-- A class-4 operation the masking invariant of R102 speaks of: R106 to R131, and END of width 16 or 32. -/
def masksUpperHalf : Instr → Bool
  | .add32K _ _ => true
  | .add32X _ _ => true
  | .sub32K _ _ => true
  | .sub32X _ _ => true
  | .mul32K _ _ => true
  | .mul32X _ _ => true
  | .div32K _ _ => true
  | .div32X _ _ => true
  | .or32K _ _ => true
  | .or32X _ _ => true
  | .and32K _ _ => true
  | .and32X _ _ => true
  | .lsh32K _ _ => true
  | .lsh32X _ _ => true
  | .rsh32K _ _ => true
  | .rsh32X _ _ => true
  | .neg32 _ => true
  | .mod32K _ _ => true
  | .mod32X _ _ => true
  | .xor32K _ _ => true
  | .xor32X _ _ => true
  | .mov32K _ _ => true
  | .mov32X _ _ => true
  | .arsh32K _ _ => true
  | .arsh32X _ _ => true
  | .le16 _ => true
  | .le32 _ => true
  | .be16 _ => true
  | .be32 _ => true
  | _ => false

/-- The value the last cell for address `a` gives, or `d` if there is none. -/
def lastWrite (cells : List Host.Cell) (a : Nat) (d : Byte) : Byte :=
  cells.foldl (fun b c => if c.1 = a then c.2 else b) d

/-! ### Helpers (R231, R232) -/

/-- The request of R231 for helper `k`. -/
def requestOf (k : Nat) (s : State) : HelperRequest := ⟨k, s.reg 1, s.reg 2, s.reg 3, s.reg 4, s.reg 5⟩

/-- A component of a row is left open, or is this value (log 12). -/
def Fits (o : Option Word) (v : Word) : Prop := ∀ w, o = some w → v = w

/-- The row speaks of these arguments and of this data memory. -/
structure RowApplies (row : HelperRow) (q : HelperRequest) (s : State) : Prop where
  a1 : Fits row.a1 q.a1
  a2 : Fits row.a2 q.a2
  a3 : Fits row.a3 q.a3
  a4 : Fits row.a4 q.a4
  a5 : Fits row.a5 q.a5
  reads : ∀ c ∈ row.reads, Readable s c.1 1 ∧ s.byteAt c.1 = c.2

/-- The row relates the request and the data memory to the answer. -/
structure RowAllows (row : HelperRow) (q : HelperRequest) (r : HelperResponse) (s : State) : Prop where
  applies : RowApplies row q s
  result : Fits row.result r.result
  writes : ∀ ws, row.writes = some ws → ∀ a, Writable s a 1 →
    lastWrite r.writes a (s.byteAt a) = lastWrite ws a (s.byteAt a)

/-- `HelperSpec` of the helper asked, where the host gives one, has a row for the answer; without one every answer is
allowed (R232). -/
def HelperAllows (s : State) (q : HelperRequest) (r : HelperResponse) : Prop :=
  ∀ rows, s.helpers[q.index]? = some (.relation rows) → ∃ row ∈ rows, RowAllows row q r s

/-- `t` is `s` after the answer `r` has completed a CALL, `rest` being the answers still at the port (R230, R232). -/
structure AnsweredBy (r : HelperResponse) (rest : List HelperResponse) (s t : State) : Prop where
  result : t.reg 0 = r.result
  regs : ∀ p, p ≠ 0 → t.reg p = s.reg p
  pc : t.pc = s.pc + 1
  written : ∀ a, Writable s a 1 → t.byteAt a = lastWrite r.writes a (s.byteAt a)
  unwritten : ∀ a, ¬Writable s a 1 → t.byteAt a = s.byteAt a
  helperReq : t.helperReq = none
  helperRsp : t.helperRsp = rest
  startIn : t.startIn = s.startIn
  status : SameStatus s t
  setting : SameSetting s t

/-- What a completed CALL leaves is what some row of the relation gives. -/
def ObeysRelation (rows : List HelperRow) (q : HelperRequest) (s t : State) : Prop :=
  ∃ row ∈ rows, RowApplies row q s ∧ Fits row.result (t.reg 0) ∧
    ∀ ws, row.writes = some ws → ∀ a, Writable s a 1 → t.byteAt a = lastWrite ws a (s.byteAt a)

/-- No region wraps and no two share a byte (R51, R52, R274). -/
def LegalLayout (rs : List Region) : Prop :=
  (∀ r ∈ rs, r.base + r.len ≤ 2 ^ 64) ∧ rs.Pairwise fun r q =>
    r.len = 0 ∨ q.len = 0 ∨ r.base + r.len ≤ q.base ∨ q.base + q.len ≤ r.base

/-- The regions a start event would give the core (R270). -/
def StartEvent.layout (e : StartEvent) (stackSize : Nat) : List Region := ⟨e.stackBase, stackSize, true⟩ :: e.regions

/-! ### Steps -/

/-- A step of this state fetches and runs an instruction: Running, no start presented, no helper awaited, the step
budget not spent (R31, R262). -/
structure Ready (s : State) : Prop where
  running : s.status = .running
  noStart : s.startIn = none
  noRequest : s.helperReq = none
  budget : ∀ f, s.params.fuel = some f → s.steps < f

/-- `s` with its step counted (R262). -/
def Counted (s : State) : State := { s with steps := s.steps + 1 }

/-! ### The invariant -/

/-- What every state of a core that started legally keeps: memory in canonical form and inside the regions, a legal
layout (R52), run-status registers that agree with STATUS (R35), a request only while Running (R37), and a step
count within the budget (R262). -/
structure Inv (s : State) : Prop where
  memWf : s.mem.wf = true
  memInside : ∀ c ∈ s.mem, Readable s c.1 1
  layout : LegalLayout s.allRegions
  faultIffAborted : s.fault ≠ .none ↔ s.status = .aborted
  recordClear : s.status ≠ .aborted → s.faultPc = 0 ∧ s.faultInfo = 0
  resultClear : s.status ≠ .terminated → s.result = 0 ∧ s.termCause = .exit
  requestRunning : s.helperReq ≠ none → s.status = .running
  requestLegal : ∀ q, s.helperReq = some q → q.index < s.nhelpers
  budget : ∀ f, s.params.fuel = some f → s.steps ≤ f

/-- The two states agree on everything but bytes outside every region (and the way memory is listed). -/
structure SameVisible (s t : State) : Prop where
  regs : t.regs = s.regs
  pc : t.pc = s.pc
  status : SameStatus s t
  prog : t.prog = s.prog
  helpers : t.helpers = s.helpers
  stackBase : t.stackBase = s.stackBase
  regions : t.regions = s.regions
  params : t.params = s.params
  ports : SamePorts s t
  bytes : ∀ a, Readable s a 1 → t.byteAt a = s.byteAt a

end Sys2Proof.Machine
end

