-- ==== Sys2Proof/Certificates/Slice0/Obligations.lean ====
section
/-! DEFINITION. The statements for the provers. Each says which rule of spec/ it formalises; the terms are those of
Sys2Proof/Safety.lean, and OBLIGATIONS.json lists them. -/

open Sys2Proof Sys2Proof.Machine

/-! ### The ALU classes -/

/-- R106, R108, R110, R114, R116, R126, R128: encoding, result and frame of ADD32, SUB32, MUL32, OR32, AND32, XOR32 and
MOV32, K and X. -/
def Obligations.Alu32ArithmeticAndLogic : Prop :=
  AluRule32 0x04 0x0c .add32K .add32X (fun a b => (a + b) % 2 ^ 32) ∧
  AluRule32 0x14 0x1c .sub32K .sub32X (fun a b => (a + 2 ^ 32 - b) % 2 ^ 32) ∧
  AluRule32 0x24 0x2c .mul32K .mul32X (fun a b => a * b % 2 ^ 32) ∧
  AluRule32 0x44 0x4c .or32K .or32X (fun a b => a ||| b) ∧
  AluRule32 0x54 0x5c .and32K .and32X (fun a b => a &&& b) ∧
  AluRule32 0xa4 0xac .xor32K .xor32X (fun a b => a ^^^ b) ∧
  AluRule32 0xb4 0xbc .mov32K .mov32X (fun _ b => b)

/-- R107, R109, R111, R115, R117, R127, R129: encoding, result and frame of ADD, SUB, MUL, OR, AND, XOR and MOV, K and
X. -/
def Obligations.Alu64ArithmeticAndLogic : Prop :=
  AluRule64 0x07 0x0f .addK .addX (fun a b => (a + b) % 2 ^ 64) ∧
  AluRule64 0x17 0x1f .subK .subX (fun a b => (a + 2 ^ 64 - b) % 2 ^ 64) ∧
  AluRule64 0x27 0x2f .mulK .mulX (fun a b => a * b % 2 ^ 64) ∧
  AluRule64 0x47 0x4f .orK .orX (fun a b => a ||| b) ∧
  AluRule64 0x57 0x5f .andK .andX (fun a b => a &&& b) ∧
  AluRule64 0xa7 0xaf .xorK .xorX (fun a b => a ^^^ b) ∧
  AluRule64 0xb7 0xbf .movK .movX (fun _ b => b)

/-- R104, R118 to R121, R130, R131: the shifts of both classes take the amount modulo the width; RSH is a division by a
power of two, ARSH the same of the signed value. -/
def Obligations.ShiftsTakeAmountModuloWidth : Prop :=
  AluRule32 0x64 0x6c .lsh32K .lsh32X (fun a b => a * 2 ^ (b % 32) % 2 ^ 32) ∧
  AluRule32 0x74 0x7c .rsh32K .rsh32X (fun a b => a / 2 ^ (b % 32)) ∧
  AluRule32 0xc4 0xcc .arsh32K .arsh32X (fun a b => (signedOf 32 a / 2 ^ (b % 32) % 2 ^ 32).toNat) ∧
  AluRule64 0x67 0x6f .lshK .lshX (fun a b => a * 2 ^ (b % 64) % 2 ^ 64) ∧
  AluRule64 0x77 0x7f .rshK .rshX (fun a b => a / 2 ^ (b % 64)) ∧
  AluRule64 0xc7 0xcf .arshK .arshX (fun a b => (signedOf 64 a / 2 ^ (b % 64) % 2 ^ 64).toNat)

/-- R122, R123, R137: NEG negates at its width; its X encodings abort with UnimplementedOpcode, and ALU op codes 14 and
15 are decode faults. -/
def Obligations.NegNegatesAndNegXAborts : Prop :=
  DecodesAs 0x84 (fun dst _ _ _ => .neg32 dst) ∧ DecodesAs 0x87 (fun dst _ _ _ => .neg dst) ∧
  (∀ (s : State) (dst : Reg),
    WritesReg (.neg32 dst) dst ((2 ^ 32 - (s.reg dst).toNat % 2 ^ 32) % 2 ^ 32) s ∧
    WritesReg (.neg dst) dst ((2 ^ 64 - (s.reg dst).toNat) % 2 ^ 64) s) ∧
  AbortsAs 0x8c .neg32X .unimplementedOpcode ∧ AbortsAs 0x8f .negX .unimplementedOpcode ∧
  (∀ w rest, bitsOf w 0 3 = 4 ∨ bitsOf w 0 3 = 7 → 14 ≤ bitsOf w 4 4 →
    decode (w :: rest) = .ok (.faultOp14Or15 w) ∧ ∀ s, Aborts (.faultOp14Or15 w) .decodeFault w.toNat s)

/-- R103, R112, R113, R124, R125, R243: DIV and MOD are unsigned at their width; a zero divisor, as the instruction
uses it, ends the run with result 0 and TERM_CAUSE 1, and writes nothing. -/
def Obligations.DivModUnsignedAndZeroTerminates : Prop :=
  DivRule32 0x34 0x3c .div32K .div32X (fun a b => a / b) ∧
  DivRule32 0x94 0x9c .mod32K .mod32X (fun a b => a % b) ∧
  DivRule64 0x37 0x3f .divK .divX (fun a b => a / b) ∧
  DivRule64 0x97 0x9f .modK .modX (fun a b => a % b)

/-- R132 to R136: END in both ALU classes, in both byte orders, byte by byte; a width other than 16, 32 and 64 aborts
with InvalidOperand. -/
def Obligations.EndConvertsByteOrder : Prop :=
  EndRule 0xd4 .le16 .le32 .le64 .endWidthD4 (fun o => decide (o = .big)) ∧
  EndRule 0xdc .be16 .be32 .be64 .endWidthDC (fun o => decide (o = .little)) ∧
  EndRule 0xd7 .le16Alu64 .le32Alu64 .le64Alu64 .endWidthD7 (fun o => decide (o = .big)) ∧
  EndRule 0xdf .be16Alu64 .be32Alu64 .be64Alu64 .endWidthDF (fun o => decide (o = .little))

/-- R102: after a class-4 operation or an END of width 16 or 32 that leaves the run going, the upper half of its
destination is zero; END of width 64 can leave it non-zero. -/
def Obligations.Class4ClearsUpperHalf : Prop :=
  (∀ (i : Instr) (dst : Reg) (s t : State), masksUpperHalf i = true → destOf i = some dst → s.status = .running →
    exec i s = .next t → t.status = .running → (t.reg dst).toNat < 2 ^ 32) ∧
  (∀ dst : Reg, ∃ s t, s.status = .running ∧ exec (.be64 dst) s = .next t ∧ 2 ^ 32 ≤ (t.reg dst).toNat)

/-! ### The jump classes -/

/-- R165, R167, R169, R171, R173, R175, R177, R179, R181, R183, R185: the eleven conditional jumps of class JMP, K and X,
on 64-bit operands. -/
def Obligations.Jumps64Compare : Prop :=
  JumpRule64 0x15 0x1d .jeqK .jeqX (fun a b => a = b) ∧
  JumpRule64 0x25 0x2d .jgtK .jgtX (fun a b => a > b) ∧
  JumpRule64 0x35 0x3d .jgeK .jgeX (fun a b => a ≥ b) ∧
  JumpRule64 0x45 0x4d .jsetK .jsetX (fun a b => a &&& b ≠ 0) ∧
  JumpRule64 0x55 0x5d .jneK .jneX (fun a b => a ≠ b) ∧
  JumpRule64 0x65 0x6d .jsgtK .jsgtX (fun a b => signedOf 64 a > signedOf 64 b) ∧
  JumpRule64 0x75 0x7d .jsgeK .jsgeX (fun a b => signedOf 64 a ≥ signedOf 64 b) ∧
  JumpRule64 0xa5 0xad .jltK .jltX (fun a b => a < b) ∧
  JumpRule64 0xb5 0xbd .jleK .jleX (fun a b => a ≤ b) ∧
  JumpRule64 0xc5 0xcd .jsltK .jsltX (fun a b => signedOf 64 a < signedOf 64 b) ∧
  JumpRule64 0xd5 0xdd .jsleK .jsleX (fun a b => signedOf 64 a ≤ signedOf 64 b)

/-- R166, R168, R170, R172, R174, R176, R178, R180, R182, R184, R186: the eleven conditional jumps of class JMP32, K and X,
on the low 32 bits. -/
def Obligations.Jumps32Compare : Prop :=
  JumpRule32 0x16 0x1e .jeq32K .jeq32X (fun a b => a = b) ∧
  JumpRule32 0x26 0x2e .jgt32K .jgt32X (fun a b => a > b) ∧
  JumpRule32 0x36 0x3e .jge32K .jge32X (fun a b => a ≥ b) ∧
  JumpRule32 0x46 0x4e .jset32K .jset32X (fun a b => a &&& b ≠ 0) ∧
  JumpRule32 0x56 0x5e .jne32K .jne32X (fun a b => a ≠ b) ∧
  JumpRule32 0x66 0x6e .jsgt32K .jsgt32X (fun a b => signedOf 32 a > signedOf 32 b) ∧
  JumpRule32 0x76 0x7e .jsge32K .jsge32X (fun a b => signedOf 32 a ≥ signedOf 32 b) ∧
  JumpRule32 0xa6 0xae .jlt32K .jlt32X (fun a b => a < b) ∧
  JumpRule32 0xb6 0xbe .jle32K .jle32X (fun a b => a ≤ b) ∧
  JumpRule32 0xc6 0xce .jslt32K .jslt32X (fun a b => signedOf 32 a < signedOf 32 b) ∧
  JumpRule32 0xd6 0xde .jsle32K .jsle32X (fun a b => signedOf 32 a ≤ signedOf 32 b)

/-- R164: JA always goes to `pc_i + 1 + sext_16(off)`, a mathematical integer; its X encoding aborts. -/
def Obligations.JaJumpsAlways : Prop :=
  DecodesAs 0x05 (fun _ _ off _ => .ja off) ∧ AbortsAs 0x0d .jaX .unimplementedOpcode ∧
  ∀ (s : State) (off : BitVec 16), Jumps (.ja off) True off s

/-- R187: EXIT ends the run with all of `x[0]` as its result and TERM_CAUSE 0; its X encoding aborts. -/
def Obligations.ExitYieldsRegisterZero : Prop :=
  DecodesAs 0x95 (fun _ _ _ _ => .exit) ∧ AbortsAs 0x9d .exitX .unimplementedOpcode ∧
  ∀ s : State, Terminates .exit (s.reg 0) .exit s

/-- R188: the jump encodings with no rule abort with UnimplementedOpcode, and jump op codes 14 and 15 are decode
faults. -/
def Obligations.JumpEncodingsWithNoRuleAbort : Prop :=
  AbortsAs 0x0d .jaX .unimplementedOpcode ∧ AbortsAs 0x9d .exitX .unimplementedOpcode ∧
  AbortsAs 0x8d .callX .unimplementedOpcode ∧ AbortsAs 0x06 .ja32 .unimplementedOpcode ∧
  AbortsAs 0x0e .ja32X .unimplementedOpcode ∧ AbortsAs 0x86 .call32 .unimplementedOpcode ∧
  AbortsAs 0x8e .call32X .unimplementedOpcode ∧ AbortsAs 0x96 .exit32 .unimplementedOpcode ∧
  AbortsAs 0x9e .exit32X .unimplementedOpcode ∧
  (∀ w rest, bitsOf w 0 3 = 5 ∨ bitsOf w 0 3 = 6 → 14 ≤ bitsOf w 4 4 →
    decode (w :: rest) = .ok (.faultOp14Or15 w) ∧ ∀ s, Aborts (.faultOp14Or15 w) .decodeFault w.toNat s)

/-! ### Loads and stores -/

/-- R200: LDDW takes the low half from its own word and the high half from the following one, goes two slots on, and in
the last slot of the program aborts with PcOutOfRange. -/
def Obligations.LddwLoadsSixtyFourBits : Prop :=
  (∀ (w w2 : Word) (rest : List Word) (dst : Reg), bitsOf w 0 8 = 0x18 → bitsOf w 8 4 = dst.val →
    decode (w :: w2 :: rest) = .ok (.lddw dst (BitVec.ofNat 64 (bitsOf w2 32 32 * 2 ^ 32 + bitsOf w 32 32)))) ∧
  (∀ (s : State) (dst : Reg) (imm64 : Word), WritesRegBy 2 (.lddw dst imm64) dst (· = imm64.toNat) s) ∧
  (∀ (s : State) (w : Word), Ready s → 0 ≤ s.pc → s.prog[s.pc.toNat]? = some w → bitsOf w 0 8 = 0x18 →
    s.pc + 1 = s.prog.length →
    ∃ t, step s = .next t ∧ AbortedFrom .pcOutOfRange ((s.pc + 1) % 2 ^ 64).toNat (Counted s) t)

/-- R201 to R205, R219: LDXW, LDXH, LDXB, LDXDW with their checks in order: a byte outside every region, a misaligned
address, else the zero-extended value. The value on a big-endian core is the model's reading of R53 (log 20). -/
def Obligations.LoadsReadMemory : Prop :=
  LoadRule 0x61 4 .ldxw ∧ LoadRule 0x69 2 .ldxh ∧ LoadRule 0x71 1 .ldxb ∧ LoadRule 0x79 8 .ldxdw

/-- R206 to R210, R219: STW, STH, STB, STDW with their checks in order store the low bytes of the sign-extended immediate,
and nothing on a fault. The stored bytes on a big-endian core are the model's reading of R53 (log 20). -/
def Obligations.StoresOfImmediates : Prop :=
  StoreImmRule 0x62 4 .stw ∧ StoreImmRule 0x6a 2 .sth ∧ StoreImmRule 0x72 1 .stb ∧ StoreImmRule 0x7a 8 .stdw

/-- R211 to R215, R219: STXW, STXH, STXB, STXDW with their checks in order store the low bytes of the source register, and
nothing on a fault. The stored bytes on a big-endian core are the model's reading of R53 (log 20). -/
def Obligations.StoresOfRegisters : Prop :=
  StoreRegRule 0x63 4 .stxw ∧ StoreRegRule 0x6b 2 .stxh ∧ StoreRegRule 0x73 1 .stxb ∧ StoreRegRule 0x7b 8 .stxdw

/-- R216: modes ABS, IND, LEN and MSH abort with UnsupportedAddressingMode and change nothing. -/
def Obligations.UnsupportedModesAbort : Prop :=
  ModeRule 1 .modeAbs .unsupportedAddressingMode ∧ ModeRule 2 .modeInd .unsupportedAddressingMode ∧
  ModeRule 4 .modeLen .unsupportedAddressingMode ∧ ModeRule 5 .modeMsh .unsupportedAddressingMode

/-- R217: mode XADD aborts with UnimplementedOpcode and changes nothing. -/
def Obligations.XaddAborts : Prop := ModeRule 6 .modeXadd .unimplementedOpcode

/-- R218: the memory combinations with no rule abort with UnimplementedOpcode. -/
def Obligations.MemoryEncodingsWithNoRuleAbort : Prop :=
  AbortsAs 0x00 .noRule00 .unimplementedOpcode ∧ AbortsAs 0x08 .noRule08 .unimplementedOpcode ∧
  AbortsAs 0x10 .noRule10 .unimplementedOpcode ∧ AbortsAs 0x60 .noRule60 .unimplementedOpcode ∧
  AbortsAs 0x68 .noRule68 .unimplementedOpcode ∧ AbortsAs 0x70 .noRule70 .unimplementedOpcode ∧
  AbortsAs 0x78 .noRule78 .unimplementedOpcode ∧ AbortsAs 0x01 .noRule01 .unimplementedOpcode ∧
  AbortsAs 0x09 .noRule09 .unimplementedOpcode ∧ AbortsAs 0x11 .noRule11 .unimplementedOpcode ∧
  AbortsAs 0x19 .noRule19 .unimplementedOpcode ∧ AbortsAs 0x02 .noRule02 .unimplementedOpcode ∧
  AbortsAs 0x0a .noRule0a .unimplementedOpcode ∧ AbortsAs 0x12 .noRule12 .unimplementedOpcode ∧
  AbortsAs 0x1a .noRule1a .unimplementedOpcode ∧ AbortsAs 0x03 .noRule03 .unimplementedOpcode ∧
  AbortsAs 0x0b .noRule0b .unimplementedOpcode ∧ AbortsAs 0x13 .noRule13 .unimplementedOpcode ∧
  AbortsAs 0x1b .noRule1b .unimplementedOpcode

/-- R61 with R53: a load returns what the store just before it wrote. After each of the eight stores the load of its width
from the same base and offset gives the stored value, and on a little-endian core the narrower loads give its low-order
bytes. -/
def Obligations.LoadReturnsLastStore : Prop :=
  ∀ (s : State) (base src : Reg) (off : BitVec 16) (imm : BitVec 32), s.status = .running →
    Reloads 4 (.stxw base off src) base off (s.reg src).toNat s ∧
    Reloads 2 (.stxh base off src) base off (s.reg src).toNat s ∧
    Reloads 1 (.stxb base off src) base off (s.reg src).toNat s ∧
    Reloads 8 (.stxdw base off src) base off (s.reg src).toNat s ∧
    Reloads 4 (.stw base off imm) base off (sextNat imm.toNat) s ∧
    Reloads 2 (.sth base off imm) base off (sextNat imm.toNat) s ∧
    Reloads 1 (.stb base off imm) base off (sextNat imm.toNat) s ∧
    Reloads 8 (.stdw base off imm) base off (sextNat imm.toNat) s

/-! ### CALL -/

/-- R230, R232, with the model's answer queue (log 10, log 11, log 12): with a legal index and an answer at the port that
the helper may give, CALL completes: `x[0]` is the helper's result, each byte of a writable region is what the helper
wrote last there, and no other byte, no other register and no run-status register changes. -/
def Obligations.CallTakesHelperAnswer : Prop :=
  (∀ (w : Word) (rest : List Word) (dst : Reg) (off : BitVec 16) (imm : BitVec 32), Fields w 0x85 dst 0 off imm →
    decode (w :: rest) = .ok (.call imm)) ∧
  ∀ (s : State) (imm : BitVec 32) (k : Nat) (r : HelperResponse) (rest : List HelperResponse),
    signedOf 32 imm.toNat = k → k < s.nhelpers → s.helperRsp = r :: rest → HelperAllows s (requestOf k s) r →
    ∃ t, exec (.call imm) s = .next t ∧ AnsweredBy r rest s t

/-- R230, R231, R232, R37, with the model's answer queue (log 10, log 11, log 12, log 13): a CALL with no answer that the
helper may give makes its request with `x[1]` to `x[5]` outstanding and changes nothing else; the waiting core takes no
step while there is no answer, and refuses one the helper may not give; an answer it may give completes the CALL. -/
def Obligations.CallWaitsForItsHelper : Prop :=
  (∀ (s : State) (imm : BitVec 32) (k : Nat), signedOf 32 imm.toNat = k → k < s.nhelpers →
    (∀ r rest, s.helperRsp = r :: rest → ¬HelperAllows s (requestOf k s) r) →
    exec (.call imm) s = .next { s with helperReq := some (requestOf k s) }) ∧
  (∀ (s : State) (q : HelperRequest), s.status = .running → s.startIn = none → s.helperReq = some q →
    (s.helperRsp = [] → step s = .fault .helperPending) ∧
    (∀ r rest, s.helperRsp = r :: rest → ¬HelperAllows s q r → step s = .refused .helperAnswerForbidden) ∧
    (∀ r rest, s.helperRsp = r :: rest → HelperAllows s q r → ∃ t, step s = .next t ∧ AnsweredBy r rest s t))

/-- R233: an index outside `0 .. NHELPERS - 1` aborts with HelperIndexOutOfRange, no helper is invoked and `x[0]` is
unchanged. A legal index does not abort: CALL answers a next state with STATUS and FAULT as they were, also while the
helper has not answered, which is the model's way to wait (log 10, log 13). -/
def Obligations.CallChecksHelperIndex : Prop :=
  ∀ (s : State) (imm : BitVec 32),
    (¬(0 ≤ signedOf 32 imm.toNat ∧ signedOf 32 imm.toNat < s.nhelpers) →
      Aborts (.call imm) .helperIndexOutOfRange (sextNat imm.toNat) s) ∧
    (0 ≤ signedOf 32 imm.toNat ∧ signedOf 32 imm.toNat < s.nhelpers →
      ∃ t, exec (.call imm) s = .next t ∧ t.status = s.status ∧ t.fault = s.fault)

/-- R234: CALL with `src != 0` aborts with UnimplementedOpcode before the index is looked at, and CALL with s = X does
the same. -/
def Obligations.CallWithSourceRegisterAborts : Prop :=
  (∀ (w : Word) (rest : List Word), bitsOf w 0 8 = 0x85 → bitsOf w 12 4 ≠ 0 →
    ∃ i, decode (w :: rest) = .ok i ∧ ∀ s, Aborts i .unimplementedOpcode w.toNat s) ∧
  AbortsAs 0x8d .callX .unimplementedOpcode ∧
  (∀ (w : Word) (s : State), Aborts (.callSrc1 w) .unimplementedOpcode w.toNat s ∧
    Aborts (.callSrc2 w) .unimplementedOpcode w.toNat s ∧ Aborts (.callSrc4 w) .unimplementedOpcode w.toNat s ∧
    Aborts (.callSrc8 w) .unimplementedOpcode w.toNat s)

/-! ### Decoding -/

/-- R81: the words that are decode faults are exactly those with an opcode byte of 0xe0 to 0xff: a memory class with
mode 7, or another class with op 14 or 15; each aborts with DecodeFault and the word. -/
def Obligations.DecodeFaultsAreExactlyE0ToFF : Prop :=
  (∀ (w : Word) (rest : List Word), bitsOf w 0 3 < 4 → bitsOf w 5 3 = 7 → decode (w :: rest) = .ok (.faultMode7 w)) ∧
  (∀ (w : Word) (rest : List Word), 4 ≤ bitsOf w 0 3 → 14 ≤ bitsOf w 4 4 →
    decode (w :: rest) = .ok (.faultOp14Or15 w)) ∧
  (∀ w : Word, (bitsOf w 0 3 < 4 ∧ bitsOf w 5 3 = 7 ∨ 4 ≤ bitsOf w 0 3 ∧ 14 ≤ bitsOf w 4 4) ↔ 0xe0 ≤ bitsOf w 0 8) ∧
  (∀ (w v : Word) (rest : List Word), bitsOf w 0 8 < 0xe0 →
    decode (w :: rest) ≠ .ok (.faultMode7 v) ∧ decode (w :: rest) ≠ .ok (.faultOp14Or15 v)) ∧
  (∀ (w : Word) (s : State), Aborts (.faultMode7 w) .decodeFault w.toNat s ∧
    Aborts (.faultOp14Or15 w) .decodeFault w.toNat s)

/-- R84: the wide-immediate load is the only two-slot instruction, told by its opcode byte 0x18; of its second word only
the upper half is used. -/
def Obligations.OnlyOpcode18TakesTwoSlots : Prop :=
  (∀ (w : Word) (rest : List Word), bitsOf w 0 8 ≠ 0x18 → decode (w :: rest) = decode [w]) ∧
  (∀ w : Word, bitsOf w 0 8 = 0x18 → decode [w] = .error .secondSlotMissing) ∧
  (∀ (w w2 v2 : Word) (rest rest' : List Word), bitsOf w 0 8 = 0x18 → bitsOf w2 32 32 = bitsOf v2 32 32 →
    decode (w :: w2 :: rest) = decode (w :: v2 :: rest'))

/-- Every list of two words or more decodes, and what decodes is well-formed (R80, R85: the decoder is total). -/
def Obligations.DecoderIsTotalAndWellFormed : Prop :=
  (∀ (w w2 : Word) (rest : List Word), ∃ i, decode (w :: w2 :: rest) = .ok i) ∧
  (∀ (ws : List Word) (i : Instr), decode ws = .ok i → i.wellFormed = true)

/-- Decoding an encoded well-formed instruction gives it back, whatever follows it (R70 to R85). The
encoder's zeros in unused fields are the model's choice (log 19). -/
def Obligations.DecodeInvertsEncode : Prop :=
  ∀ (i : Instr) (rest : List Word), i.wellFormed = true → decode (encode i ++ rest) = .ok i

/-- Words the spec writes out decode to the instructions it says they are (95_test_vectors E2; R200, R187, R230). -/
def Obligations.WrittenOutWordsDecode : Prop :=
  decode [0xfffffff900000304] = .ok (.add32K 3 (-7)) ∧
  decode [0x00000000000092bf] = .ok (.movX 2 9) ∧
  decode [0x00000064fffe0465] = .ok (.jsgtK 4 100 (-2)) ∧
  decode [0x00000000012c61ae] = .ok (.jlt32X 1 6 300) ∧
  decode [0x000000008000a069] = .ok (.ldxh 0 10 (-32768)) ∧
  decode [0x000000ff7fff0a72] = .ok (.stb 10 32767 255) ∧
  decode [0x00000000fff8fa7b] = .ok (.stxdw 10 (-8) 15) ∧
  decode [0x5566778800000118, 0x1122334400000000] = .ok (.lddw 1 0x1122334455667788) ∧
  decode [0x00000020000001dc] = .ok (.be32 1) ∧
  decode [0x0000000000000095] = .ok .exit ∧ decode [0xffffffff00000085] = .ok (.call (-1))

/-! ### The whole machine -/

/-- A step of a Ready state whose words at the pc decode to `i` is `exec` of `i` on that state with the step counted;
`exec` itself moves the pc on (R31, log 2). -/
def Obligations.StepRunsTheDecodedInstruction : Prop :=
  ∀ (s : State) (i : Instr), Ready s → 0 ≤ s.pc → decode (s.prog.drop s.pc.toNat) = .ok i →
    step s = exec i (Counted s)

/-- R33: a fetch of a slot below 0 or from N on aborts with PcOutOfRange and the slot index, also for the second slot
of a wide-immediate load; the step is counted. -/
def Obligations.FetchOutsideProgramAborts : Prop :=
  (∀ s : State, Ready s → (s.pc < 0 ∨ s.prog.length ≤ s.pc) →
    ∃ t, step s = .next t ∧ AbortedFrom .pcOutOfRange (s.pc % 2 ^ 64).toNat (Counted s) t) ∧
  (∀ (s : State) (w : Word), Ready s → 0 ≤ s.pc → s.prog[s.pc.toNat]? = some w → bitsOf w 0 8 = 0x18 →
    s.pc + 1 = s.prog.length →
    ∃ t, step s = .next t ∧ AbortedFrom .pcOutOfRange ((s.pc + 1) % 2 ^ 64).toNat (Counted s) t)

/-- R262: with FUEL set, a step that finds STEPS at FUEL or above aborts with StepBudgetExhausted and is not counted;
any other step is counted, whatever it does. That the info is STEPS mod 2^64 is the model's choice (log 23). -/
def Obligations.StepBudgetLimitsSteps : Prop :=
  (∀ (s : State) (f : Nat), s.status = .running → s.startIn = none → s.helperReq = none → s.params.fuel = some f →
    f ≤ s.steps → ∃ t, step s = .next t ∧ AbortedFrom .stepBudgetExhausted (s.steps % 2 ^ 64) s t) ∧
  (∀ s t : State, Ready s → step s = .next t → t.steps = s.steps + 1)

/-- R241: a step of a Running core that ends in Aborted records a fault of R240 with FAULT_PC = pc_i, resets the pc to
pc_i, clears RESULT, and changes no register, no byte of memory and nothing the host supplied. -/
def Obligations.FaultsArePrecise : Prop :=
  ∀ s t : State, s.status = .running → step s = .next t → t.status = .aborted →
    t.fault ≠ .none ∧ t.faultPc = s.pc ∧ t.pc = s.pc ∧ t.result = 0 ∧ SameRegs s t ∧ SameMemory s t ∧
      t.termCause = s.termCause ∧ SameSetting s t ∧ SamePorts s t

/-- R244, R243: a run ends in Terminated only by EXIT, with `x[0]` and TERM_CAUSE 0, or by a DIV or MOD whose divisor is
zero, with 0 and TERM_CAUSE 1; no instruction and no step leaves a Running core Idle. The same of every step: the words
at its pc decode to such an instruction. -/
def Obligations.OnlyExitAndDivisionTerminate : Prop :=
  (∀ (i : Instr) (s t : State), s.status = .running → exec i s = .next t →
    t.status ≠ .idle ∧ (t.status = .terminated → EndedBy i s t)) ∧
  (∀ s t : State, s.status = .running → step s = .next t →
    t.status ≠ .idle ∧ (t.status = .terminated →
      0 ≤ s.pc ∧ ∃ i, decode (s.prog.drop s.pc.toNat) = .ok i ∧ EndedBy i s t))

/-- R22: no instruction writes a register but its destination: ALU, ALU64, LDX and LDDW write `x[dst]`, CALL writes
`x[0]`, and jumps, stores, EXIT and every aborting encoding write none. -/
def Obligations.OnlyTheDestinationIsWritten : Prop :=
  ∀ (i : Instr) (s t : State) (r : Reg), exec i s = .next t → destOf i ≠ some r → t.reg r = s.reg r

/-- R35: no instruction reads the run-status registers: two states that differ only in them give the same registers,
memory, pc and ports. -/
def Obligations.RunStatusIsNotRead : Prop :=
  ∀ (i : Instr) (s t : State) (st : Status) (res : Word) (tc : TermCause) (f : FaultCode) (fpc : Int) (fi : Word)
    (n : Nat), exec i s = .next t →
    ∃ u, exec i { s with status := st, result := res, termCause := tc, fault := f, faultPc := fpc, faultInfo := fi,
                         steps := n } = .next u ∧
      u.regs = t.regs ∧ u.mem = t.mem ∧ u.pc = t.pc ∧ u.helperReq = t.helperReq ∧ u.helperRsp = t.helperRsp

/-- R64, R235: while no start is presented, no step changes the program, the helper table, the regions, the stack's place or a
parameter. -/
def Obligations.ProgramAndHelperTableAreReadOnly : Prop :=
  ∀ s t : State, s.startIn = none → step s = .next t → SameSetting s t

/-- R55, R64, R232: while no start is presented, no step, the helper's part included, changes a byte outside the writable
regions. That an answer's other writes are discarded is the model's choice (log 11). -/
def Obligations.OnlyWritableBytesChange : Prop :=
  ∀ (s t : State) (a : Nat), s.startIn = none → step s = .next t → ¬Writable s a 1 → t.byteAt a = s.byteAt a

/-- R55, R65: a byte outside every region cannot be learned: two states that agree on everything else take steps whose
results agree on everything else. -/
def Obligations.BytesOutsideRegionsAreInvisible : Prop :=
  ∀ s s' t : State, SameVisible s s' → s.startIn = none → step s = .next t →
    ∃ t', step s' = .next t' ∧ SameVisible t t'

/-- Every step keeps the invariant: memory canonical and inside the regions, a legal layout, run-status registers that
agree with STATUS, a request only while Running, STEPS within FUEL (R35, R37, R52, R262). The canonical form is the
model's (log 9). -/
def Obligations.StepKeepsInvariant : Prop :=
  ∀ s t : State, Inv s → step s = .next t → Inv t

/-- The reset state, with the parameter values the model chose (log 6), satisfies the invariant. -/
def Obligations.ResetSatisfiesInvariant : Prop := Inv State.reset

/-- R42, R31, in the model's word for "no step happens" (log 4): a core that is not Running and is given no start takes no
step. -/
def Obligations.NoStepUnlessRunning : Prop :=
  ∀ s : State, s.startIn = none → s.status ≠ .running → step s = .fault .notRunning

/-! ### Start and reset -/

/-- R41 and R274: a start is refused while Running; otherwise it is accepted exactly when the stack and the regions are
disjoint and do not wrap. The port and the refusals' names are the model's (log 5, log 16). -/
def Obligations.StartIsAcceptedOnlyWhenNotRunning : Prop :=
  ∀ (s : State) (e : StartEvent), s.startIn = some e →
    (s.status = .running → step s = .refused .startWhileRunning) ∧
    (s.status ≠ .running → LegalLayout (e.layout s.params.stackSize) → ∃ t, step s = .next t ∧ t.status = .running) ∧
    (s.status ≠ .running → ¬LegalLayout (e.layout s.params.stackSize) → step s = .refused .startBadRegions)

/-- R270: what an accepted start leaves: the registers, the pc, the run-status registers, the program, and memory, in
which each byte of a region holds what the host fixed there, or else the free draw (log 7, log 8). That the event brings
contents and helpers' answers is the model's choice (log 5, log 10). -/
def Obligations.StartInitializesTheInvocation : Prop :=
  ∀ (s t : State) (e : StartEvent), s.startIn = some e → step s = .next t →
    (∀ r : Reg, t.reg r = if r = 1 then e.ctx
      else if r = 10 then BitVec.ofNat 64 (e.stackBase + s.params.stackSize) else 0) ∧
    t.pc = 0 ∧ t.status = .running ∧ t.result = 0 ∧ t.termCause = .exit ∧ t.fault = .none ∧ t.faultPc = 0 ∧
    t.faultInfo = 0 ∧ t.steps = 0 ∧
    t.prog = e.prog ∧ t.helpers = e.helpers ∧ t.stackBase = e.stackBase ∧ t.regions = e.regions ∧
    t.params = s.params ∧ t.helperReq = none ∧ t.helperRsp = e.responses ∧ t.startIn = none ∧
    (∀ a, Readable t a 1 → t.byteAt a = lastWrite e.contents a (Config.initByte t.draw a))

/-- R275: the empty program is accepted, and the first step after its start aborts with PcOutOfRange, info 0. -/
def Obligations.EmptyProgramAbortsAtOnce : Prop :=
  ∀ (s : State) (e : StartEvent), s.startIn = some e → s.status ≠ .running →
    LegalLayout (e.layout s.params.stackSize) → e.prog = [] → s.params.fuel ≠ some 0 →
    ∃ t u, step s = .next t ∧ step t = .next u ∧ AbortedFrom .pcOutOfRange 0 (Counted t) u

/-- The reset state is the state a start leaves (R36, R270); the values of CTX, STACK_BASE, REGIONS, the helper table
and the empty program are the model's choice (log 6). -/
def Obligations.ResetIsTheStateAStartLeaves : Prop :=
  (∀ r : Reg, r ≠ 1 → r ≠ 10 → State.reset.reg r = 0) ∧ State.reset.reg 1 = Config.ctx ∧
  State.reset.reg 10 = BitVec.ofNat 64 (State.reset.stackBase + State.reset.params.stackSize) ∧
  State.reset.pc = 0 ∧ State.reset.status = .running ∧ State.reset.result = 0 ∧ State.reset.termCause = .exit ∧
  State.reset.fault = .none ∧ State.reset.faultPc = 0 ∧ State.reset.faultInfo = 0 ∧ State.reset.steps = 0 ∧
  State.reset.mem = [] ∧ State.reset.params = ⟨.little, false, none, 512⟩

/-- R232, R236, R230, with the relation as the model holds it (log 12): where the host gives a relation for the helper, a
CALL that completes, at once or after waiting, leaves in `x[0]` and in the writable bytes what a row of the relation gives
for the request and the data memory. -/
def Obligations.CompletedCallsObeyTheRelation : Prop :=
  (∀ (s t : State) (imm : BitVec 32) (k : Nat) (rows : List HelperRow), signedOf 32 imm.toNat = k →
    s.helpers[k]? = some (.relation rows) → exec (.call imm) s = .next t → t.helperReq = none →
    ObeysRelation rows (requestOf k s) s t) ∧
  (∀ (s t : State) (q : HelperRequest) (rows : List HelperRow), s.status = .running → s.startIn = none →
    s.helperReq = some q → s.helpers[q.index]? = some (.relation rows) → step s = .next t →
    t.helperReq = none ∧ ObeysRelation rows q s t)
end

