-- ==== Sys2Proof/Laws/Encoding.lean ====
section
/-! SUPPORT. The fields of a packed word (spec/30_encoding.md R70), each as it was put in. -/

namespace Sys2Proof

variable (op : BitVec 8) (dst src : Reg) (off : BitVec 16) (imm : BitVec 32)

/-- A packed word as a number: every field at its place. -/
theorem pack_toNat : (pack op dst src off imm).toNat =
    imm.toNat * 2 ^ 32 + off.toNat * 2 ^ 16 + src.val * 2 ^ 12 + dst.val * 2 ^ 8 + op.toNat := by
  have h1 : op.toNat < 2 ^ 8 := op.isLt
  have h2 : dst.val < 2 ^ 4 := dst.isLt
  have h3 : src.val < 2 ^ 4 := src.isLt
  have h4 : off.toNat < 2 ^ 16 := off.isLt
  unfold pack
  simp only [BitVec.toNat_append, BitVec.toNat_ofFin]
  rw [← Nat.shiftLeft_add_eq_or_of_lt h1, ← Nat.shiftLeft_add_eq_or_of_lt (i := 4 + 8) (by
      simp only [Nat.shiftLeft_eq]; omega), ← Nat.shiftLeft_add_eq_or_of_lt (i := 4 + (4 + 8)) (by
      simp only [Nat.shiftLeft_eq]; omega), ← Nat.shiftLeft_add_eq_or_of_lt (i := 16 + (4 + (4 + 8))) (by
      simp only [Nat.shiftLeft_eq]; omega)]
  simp only [Nat.shiftLeft_eq]
  omega

@[simp] theorem opcodeByte_pack : opcodeByte (pack op dst src off imm) = op := by
  apply BitVec.eq_of_toNat_eq
  have h1 : op.toNat < 2 ^ 8 := op.isLt
  simp only [opcodeByte, BitVec.extractLsb'_toNat, pack_toNat, Nat.shiftRight_eq_div_pow]
  omega

@[simp] theorem dstField_pack : dstField (pack op dst src off imm) = dst := by
  apply Fin.ext
  have h1 : op.toNat < 2 ^ 8 := op.isLt
  have h2 : dst.val < 2 ^ 4 := dst.isLt
  show (BitVec.extractLsb' 8 4 (pack op dst src off imm)).toNat = dst.val
  simp only [BitVec.extractLsb'_toNat, pack_toNat, Nat.shiftRight_eq_div_pow]
  omega

@[simp] theorem srcField_pack : srcField (pack op dst src off imm) = src := by
  apply Fin.ext
  have h1 : op.toNat < 2 ^ 8 := op.isLt
  have h2 : dst.val < 2 ^ 4 := dst.isLt
  have h3 : src.val < 2 ^ 4 := src.isLt
  show (BitVec.extractLsb' 12 4 (pack op dst src off imm)).toNat = src.val
  simp only [BitVec.extractLsb'_toNat, pack_toNat, Nat.shiftRight_eq_div_pow]
  omega

@[simp] theorem offField_pack : offField (pack op dst src off imm) = off := by
  apply BitVec.eq_of_toNat_eq
  have h1 : op.toNat < 2 ^ 8 := op.isLt
  have h2 : dst.val < 2 ^ 4 := dst.isLt
  have h3 : src.val < 2 ^ 4 := src.isLt
  have h4 : off.toNat < 2 ^ 16 := off.isLt
  simp only [offField, BitVec.extractLsb'_toNat, pack_toNat, Nat.shiftRight_eq_div_pow]
  omega

@[simp] theorem immField_pack : immField (pack op dst src off imm) = imm := by
  apply BitVec.eq_of_toNat_eq
  have h1 : op.toNat < 2 ^ 8 := op.isLt
  have h2 : dst.val < 2 ^ 4 := dst.isLt
  have h3 : src.val < 2 ^ 4 := src.isLt
  have h4 : off.toNat < 2 ^ 16 := off.isLt
  have h5 : imm.toNat < 2 ^ 32 := imm.isLt
  simp only [immField, BitVec.extractLsb'_toNat, pack_toNat, Nat.shiftRight_eq_div_pow]
  omega

end Sys2Proof
end

