-- ==== Sys2Proof/Laws/Decoding.lean ====
section
/-! SUPPORT. The decoder on a word whose fields are known (spec/30_encoding.md R70, R80). -/

namespace Sys2Proof.Machine

theorem opcodeByte_toNat (w : Word) : (opcodeByte w).toNat = bitsOf w 0 8 := by
  simp [opcodeByte, bitsOf, BitVec.extractLsb'_toNat, Nat.shiftRight_eq_div_pow]

theorem dstField_val (w : Word) : (dstField w).val = bitsOf w 8 4 := by
  show (BitVec.extractLsb' 8 4 w).toNat = _
  simp [bitsOf, BitVec.extractLsb'_toNat, Nat.shiftRight_eq_div_pow]

theorem srcField_val (w : Word) : (srcField w).val = bitsOf w 12 4 := by
  show (BitVec.extractLsb' 12 4 w).toNat = _
  simp [bitsOf, BitVec.extractLsb'_toNat, Nat.shiftRight_eq_div_pow]

theorem offField_toNat (w : Word) : (offField w).toNat = bitsOf w 16 16 := by
  simp [offField, bitsOf, BitVec.extractLsb'_toNat, Nat.shiftRight_eq_div_pow]

theorem immField_toNat (w : Word) : (immField w).toNat = bitsOf w 32 32 := by
  simp [immField, bitsOf, BitVec.extractLsb'_toNat, Nat.shiftRight_eq_div_pow]

/-- An opcode byte given as a number. -/
theorem opcodeByte_eq {w : Word} {b : BitVec 8} (h : bitsOf w 0 8 = b.toNat) : opcodeByte w = b :=
  BitVec.eq_of_toNat_eq (by rw [opcodeByte_toNat, h])

/-- The decoder's fields are those of R70. -/
theorem Fields.eqs {w : Word} {op : Nat} {dst src : Reg} {off : BitVec 16} {imm : BitVec 32}
    (h : Fields w op dst src off imm) :
    dst = dstField w ∧ src = srcField w ∧ off = offField w ∧ imm = immField w :=
  ⟨Fin.ext (by rw [dstField_val, h.dst]), Fin.ext (by rw [srcField_val, h.src]),
    BitVec.eq_of_toNat_eq (by rw [offField_toNat, h.off]), BitVec.eq_of_toNat_eq (by rw [immField_toNat, h.imm])⟩

/-- A word that is not the wide-immediate load decodes by its opcode byte alone. -/
theorem decode_narrow {w : Word} {b : BitVec 8} (rest : List Word) (hb : opcodeByte w = b) (hn : b ≠ 0x18) :
    decode (w :: rest) = .ok (instrOf (tagOf b) w 0) := by
  have : isWide w = false := by simpa [isWide, hb] using hn
  simp [decode, this, hb]

/-- The wide-immediate load with its second word. -/
theorem decode_wide {w : Word} (w2 : Word) (rest : List Word) (hb : opcodeByte w = 0x18) :
    decode (w :: w2 :: rest) = .ok (.lddw (dstField w) (immField w2 ++ immField w)) := by
  have : isWide w = true := by simp [isWide, hb]
  simp only [decode, this, if_true, hb]
  rfl

theorem decode_wide_alone {w : Word} (hb : opcodeByte w = 0x18) : decode [w] = .error .secondSlotMissing := by
  have : isWide w = true := by simp [isWide, hb]
  simp [decode, this]

/-- A row of the opcode map (R85): the opcode byte's tag gives the instruction of the word's fields. -/
theorem decodesAs_of {op : Nat} {c : Reg → Reg → BitVec 16 → BitVec 32 → Instr} (b : BitVec 8) (hb : op = b.toNat)
    (hn : b ≠ 0x18) (h : ∀ w, instrOf (tagOf b) w 0 = c (dstField w) (srcField w) (offField w) (immField w)) :
    DecodesAs op c := by
  intro w rest dst src off imm hf
  obtain ⟨rfl, rfl, rfl, rfl⟩ := hf.eqs
  rw [decode_narrow rest (opcodeByte_eq (hf.op.trans hb)) hn, h]

/-- A number other than 0x18 as an opcode byte. -/
theorem ofNat_ne_wide {op : Nat} (hb : op < 256) (hn : op ≠ 0x18) : BitVec.ofNat 8 op ≠ 0x18 := by
  intro h
  have := congrArg BitVec.toNat h
  simp at this
  omega

/-- The opcode byte of a word, as a number. -/
theorem opcodeByte_ofNat {w : Word} {op : Nat} (h : bitsOf w 0 8 = op) (hb : op < 256) :
    opcodeByte w = BitVec.ofNat 8 op :=
  opcodeByte_eq (h.trans (by simp; omega))

/-- A row of the opcode map (R85), the opcode byte as a number. -/
theorem decodesAs_op {op : Nat} {c : Reg → Reg → BitVec 16 → BitVec 32 → Instr} (hb : op < 256)
    (hn : op ≠ 0x18)
    (h : ∀ w, instrOf (tagOf (BitVec.ofNat 8 op)) w 0 = c (dstField w) (srcField w) (offField w) (immField w)) :
    DecodesAs op c :=
  decodesAs_of (BitVec.ofNat 8 op) (by simp; omega) (ofNat_ne_wide hb hn) h

/-- The fields of R70 inside the opcode byte. -/
theorem opcodeByte_fields (w : Word) :
    bitsOf w 0 3 = (opcodeByte w).toNat % 8 ∧ bitsOf w 4 4 = (opcodeByte w).toNat / 16 ∧
      bitsOf w 5 3 = (opcodeByte w).toNat / 32 := by
  rw [opcodeByte_toNat]; simp only [bitsOf]; omega

/-- An ALU or jump class with op 14 or 15 (R81). -/
theorem tagOf_badOp : ∀ b : BitVec 8, 4 ≤ b.toNat % 8 → 14 ≤ b.toNat / 16 → tagOf b = .badOp ∧ b ≠ 0x18 := by decide

/-- A memory class with mode 7 (R81). -/
theorem tagOf_badMode : ∀ b : BitVec 8, b.toNat % 8 < 4 → b.toNat / 32 = 7 → tagOf b = .badMode ∧ b ≠ 0x18 :=
    by decide

/-- A word of an ALU or jump class with op 14 or 15 decodes to its fault (R81). -/
theorem decode_badOp (w : Word) (rest) (h1 : 4 ≤ bitsOf w 0 3) (h2 : 14 ≤ bitsOf w 4 4) :
    decode (w :: rest) = .ok (.faultOp14Or15 w) := by
  obtain ⟨e1, e2, e3⟩ := opcodeByte_fields w
  obtain ⟨h, hn⟩ := tagOf_badOp (opcodeByte w) (by omega) (by omega)
  rw [decode_narrow rest rfl hn, h]; rfl

/-- A word of a memory class with mode 7 decodes to its fault (R81). -/
theorem decode_badMode (w : Word) (rest) (h1 : bitsOf w 0 3 < 4) (h2 : bitsOf w 5 3 = 7) :
    decode (w :: rest) = .ok (.faultMode7 w) := by
  obtain ⟨e1, e2, e3⟩ := opcodeByte_fields w
  obtain ⟨h, hn⟩ := tagOf_badMode (opcodeByte w) (by omega) (by omega)
  rw [decode_narrow rest rfl hn, h]; rfl

/-- A memory class with one of the modes 1, 2, 4, 5, 6 (R74). -/
theorem tagOf_mode : ∀ b : BitVec 8, b.toNat % 8 < 4 → (∀ md : Nat, md = b.toNat / 32 →
   (md = 1 → ∃ c sz, tagOf b = .mem c .abs sz) ∧ (md = 2 → ∃ c sz, tagOf b = .mem c .ind sz) ∧
     (md = 4 → ∃ c sz, tagOf b = .mem c .len sz) ∧
   (md = 5 → ∃ c sz, tagOf b = .mem c .msh sz) ∧ (md = 6 → ∃ c sz, tagOf b = .mem c .xadd sz)) := by
  intro b hb md hmd
  have e : ∃ c, tagOf b = memTag c b := by
    have h3 : (b.extractLsb' 0 3).toNat = b.toNat % 8 := by simp [BitVec.extractLsb'_toNat]
    unfold tagOf
    rw [h3]
    generalize b.toNat % 8 = k at hb
    have : k = 0 ∨ k = 1 ∨ k = 2 ∨ k = 3 := by omega
    rcases this with rfl | rfl | rfl | rfl <;> exact ⟨_, rfl⟩
  obtain ⟨c, hc⟩ := e
  have h5 : (b.extractLsb' 5 3).toNat = md := by simp [BitVec.extractLsb'_toNat, Nat.shiftRight_eq_div_pow]; omega
  refine ⟨?_, ?_, ?_, ?_, ?_⟩ <;> (intro h; rw [hc]; unfold memTag modeField; rw [h5, h]; exact ⟨_, _, rfl⟩)

/-- A word with a mode other than IMM is not the wide-immediate load. -/
theorem opcodeByte_ne_of_mode (w : Word) (h : bitsOf w 5 3 ≠ 0) : opcodeByte w ≠ 0x18 := by
  intro h2; rw [(opcodeByte_fields w).2.2, h2] at h; exact h rfl

/-- The two halves of the wide immediate (R200). -/
theorem imm64_eq (w w2 : Word) :
    (immField w2 ++ immField w) = BitVec.ofNat 64 (bitsOf w2 32 32 * 2 ^ 32 + bitsOf w 32 32) := by
  apply BitVec.eq_of_toNat_eq
  have h1 := (immField w).isLt
  have h2 := (immField w2).isLt
  rw [← immField_toNat, ← immField_toNat, BitVec.toNat_append, ← Nat.shiftLeft_add_eq_or_of_lt h1, Nat.shiftLeft_eq]
  simp; omega

/-- With `src` 0 no bit of the field is set. -/
theorem srcField_zero_bits (w : Word) (h : bitsOf w 12 4 = 0) :
    w.getLsbD 12 = false ∧ w.getLsbD 13 = false ∧ w.getLsbD 14 = false ∧ w.getLsbD 15 = false := by
  simp only [bitsOf] at h
  simp only [BitVec.getLsbD, Nat.testBit_eq_decide_div_mod_eq]
  simp; omega

/-- A word of a row that fixes the whole opcode byte has it. -/
theorem inRow_op {w : Word} {b : BitVec 8} (h : inRow w 0xff (b.setWidth 64) = true) : opcodeByte w = b := by
  apply BitVec.eq_of_toNat_eq
  simp only [inRow, beq_iff_eq] at h
  have h2 := congrArg BitVec.toNat h
  rw [BitVec.toNat_and, BitVec.toNat_setWidth] at h2
  have h3 := Nat.and_two_pow_sub_one_eq_mod w.toNat 8
  have := b.isLt
  simp at h2 h3
  rw [opcodeByte_toNat]
  simp only [bitsOf]
  omega

/-- A word of an aborting row that fixes the whole opcode byte decodes to that row. -/
theorem decode_inRow {w : Word} (rest : List Word) {b : BitVec 8}
    {i : Instr} (h : inRow w 0xff (b.setWidth 64) = true) (hn : b ≠ 0x18) (ht : instrOf (tagOf b) w 0 = i) :
      decode ([w] ++ rest) = .ok i := by
  show decode (w :: rest) = _
  rw [decode_narrow rest (inRow_op h) hn, ht]

/-- A word of a row that fixes class bit 2 and the top three bits has them. -/
theorem inRow_e4 {w p : Word} (h : inRow w 0xe4 p = true) : opcodeByte w &&& 0xe4 = p.setWidth 8 := by
  simp only [inRow, beq_iff_eq] at h
  rw [← h]
  apply BitVec.eq_of_getLsbD_eq
  intro k hk
  simp [opcodeByte, BitVec.getLsbD_extractLsb']

end Sys2Proof.Machine
end

