-- ==== Sys2Proof/Laws/State.lean ====
section
/-! SUPPORT. One law per field per update of the state, so that no later proof unfolds a record update. -/

namespace Sys2Proof.Machine

variable (s : State)

/-! ### `setReg` -/

@[simp] theorem State.setReg_regs (r : Reg) (v : Word) : (s.setReg r v).regs = s.regs.set r v := rfl
@[simp] theorem State.setReg_pc (r : Reg) (v : Word) : (s.setReg r v).pc = s.pc := rfl
@[simp] theorem State.setReg_status (r : Reg) (v : Word) : (s.setReg r v).status = s.status := rfl
@[simp] theorem State.setReg_result (r : Reg) (v : Word) : (s.setReg r v).result = s.result := rfl
@[simp] theorem State.setReg_termCause (r : Reg) (v : Word) : (s.setReg r v).termCause = s.termCause := rfl
@[simp] theorem State.setReg_fault (r : Reg) (v : Word) : (s.setReg r v).fault = s.fault := rfl
@[simp] theorem State.setReg_faultPc (r : Reg) (v : Word) : (s.setReg r v).faultPc = s.faultPc := rfl
@[simp] theorem State.setReg_faultInfo (r : Reg) (v : Word) : (s.setReg r v).faultInfo = s.faultInfo := rfl
@[simp] theorem State.setReg_steps (r : Reg) (v : Word) : (s.setReg r v).steps = s.steps := rfl
@[simp] theorem State.setReg_mem (r : Reg) (v : Word) : (s.setReg r v).mem = s.mem := rfl
@[simp] theorem State.setReg_prog (r : Reg) (v : Word) : (s.setReg r v).prog = s.prog := rfl
@[simp] theorem State.setReg_helpers (r : Reg) (v : Word) : (s.setReg r v).helpers = s.helpers := rfl
@[simp] theorem State.setReg_stackBase (r : Reg) (v : Word) : (s.setReg r v).stackBase = s.stackBase := rfl
@[simp] theorem State.setReg_regions (r : Reg) (v : Word) : (s.setReg r v).regions = s.regions := rfl
@[simp] theorem State.setReg_helperReq (r : Reg) (v : Word) : (s.setReg r v).helperReq = s.helperReq := rfl
@[simp] theorem State.setReg_helperRsp (r : Reg) (v : Word) : (s.setReg r v).helperRsp = s.helperRsp := rfl
@[simp] theorem State.setReg_startIn (r : Reg) (v : Word) : (s.setReg r v).startIn = s.startIn := rfl
@[simp] theorem State.setReg_params (r : Reg) (v : Word) : (s.setReg r v).params = s.params := rfl
@[simp] theorem State.setReg_draw (r : Reg) (v : Word) : (s.setReg r v).draw = s.draw := rfl
@[simp] theorem State.setReg_byteAt (r : Reg) (v : Word) (x : Nat) : (s.setReg r v).byteAt x = s.byteAt x := rfl
@[simp] theorem State.setReg_nhelpers (r : Reg) (v : Word) : (s.setReg r v).nhelpers = s.nhelpers := rfl
@[simp] theorem State.setReg_allRegions (r : Reg) (v : Word) : (s.setReg r v).allRegions = s.allRegions := rfl

/-! ### `advance` -/

@[simp] theorem State.advance_regs (n : Nat) : (s.advance n).regs = s.regs := rfl
@[simp] theorem State.advance_pc (n : Nat) : (s.advance n).pc = s.pc + n := rfl
@[simp] theorem State.advance_status (n : Nat) : (s.advance n).status = s.status := rfl
@[simp] theorem State.advance_result (n : Nat) : (s.advance n).result = s.result := rfl
@[simp] theorem State.advance_termCause (n : Nat) : (s.advance n).termCause = s.termCause := rfl
@[simp] theorem State.advance_fault (n : Nat) : (s.advance n).fault = s.fault := rfl
@[simp] theorem State.advance_faultPc (n : Nat) : (s.advance n).faultPc = s.faultPc := rfl
@[simp] theorem State.advance_faultInfo (n : Nat) : (s.advance n).faultInfo = s.faultInfo := rfl
@[simp] theorem State.advance_steps (n : Nat) : (s.advance n).steps = s.steps := rfl
@[simp] theorem State.advance_mem (n : Nat) : (s.advance n).mem = s.mem := rfl
@[simp] theorem State.advance_prog (n : Nat) : (s.advance n).prog = s.prog := rfl
@[simp] theorem State.advance_helpers (n : Nat) : (s.advance n).helpers = s.helpers := rfl
@[simp] theorem State.advance_stackBase (n : Nat) : (s.advance n).stackBase = s.stackBase := rfl
@[simp] theorem State.advance_regions (n : Nat) : (s.advance n).regions = s.regions := rfl
@[simp] theorem State.advance_helperReq (n : Nat) : (s.advance n).helperReq = s.helperReq := rfl
@[simp] theorem State.advance_helperRsp (n : Nat) : (s.advance n).helperRsp = s.helperRsp := rfl
@[simp] theorem State.advance_startIn (n : Nat) : (s.advance n).startIn = s.startIn := rfl
@[simp] theorem State.advance_params (n : Nat) : (s.advance n).params = s.params := rfl
@[simp] theorem State.advance_draw (n : Nat) : (s.advance n).draw = s.draw := rfl
@[simp] theorem State.advance_reg (n : Nat) (q : Reg) : (s.advance n).reg q = s.reg q := rfl
@[simp] theorem State.advance_byteAt (n : Nat) (x : Nat) : (s.advance n).byteAt x = s.byteAt x := rfl
@[simp] theorem State.advance_nhelpers (n : Nat) : (s.advance n).nhelpers = s.nhelpers := rfl
@[simp] theorem State.advance_allRegions (n : Nat) : (s.advance n).allRegions = s.allRegions := rfl

/-! ### `setPc` -/

@[simp] theorem State.setPc_regs (p : Int) : (s.setPc p).regs = s.regs := rfl
@[simp] theorem State.setPc_pc (p : Int) : (s.setPc p).pc = p := rfl
@[simp] theorem State.setPc_status (p : Int) : (s.setPc p).status = s.status := rfl
@[simp] theorem State.setPc_result (p : Int) : (s.setPc p).result = s.result := rfl
@[simp] theorem State.setPc_termCause (p : Int) : (s.setPc p).termCause = s.termCause := rfl
@[simp] theorem State.setPc_fault (p : Int) : (s.setPc p).fault = s.fault := rfl
@[simp] theorem State.setPc_faultPc (p : Int) : (s.setPc p).faultPc = s.faultPc := rfl
@[simp] theorem State.setPc_faultInfo (p : Int) : (s.setPc p).faultInfo = s.faultInfo := rfl
@[simp] theorem State.setPc_steps (p : Int) : (s.setPc p).steps = s.steps := rfl
@[simp] theorem State.setPc_mem (p : Int) : (s.setPc p).mem = s.mem := rfl
@[simp] theorem State.setPc_prog (p : Int) : (s.setPc p).prog = s.prog := rfl
@[simp] theorem State.setPc_helpers (p : Int) : (s.setPc p).helpers = s.helpers := rfl
@[simp] theorem State.setPc_stackBase (p : Int) : (s.setPc p).stackBase = s.stackBase := rfl
@[simp] theorem State.setPc_regions (p : Int) : (s.setPc p).regions = s.regions := rfl
@[simp] theorem State.setPc_helperReq (p : Int) : (s.setPc p).helperReq = s.helperReq := rfl
@[simp] theorem State.setPc_helperRsp (p : Int) : (s.setPc p).helperRsp = s.helperRsp := rfl
@[simp] theorem State.setPc_startIn (p : Int) : (s.setPc p).startIn = s.startIn := rfl
@[simp] theorem State.setPc_params (p : Int) : (s.setPc p).params = s.params := rfl
@[simp] theorem State.setPc_draw (p : Int) : (s.setPc p).draw = s.draw := rfl
@[simp] theorem State.setPc_reg (p : Int) (q : Reg) : (s.setPc p).reg q = s.reg q := rfl
@[simp] theorem State.setPc_byteAt (p : Int) (x : Nat) : (s.setPc p).byteAt x = s.byteAt x := rfl
@[simp] theorem State.setPc_nhelpers (p : Int) : (s.setPc p).nhelpers = s.nhelpers := rfl
@[simp] theorem State.setPc_allRegions (p : Int) : (s.setPc p).allRegions = s.allRegions := rfl

/-! ### `countStep` -/

@[simp] theorem State.countStep_regs : (s.countStep).regs = s.regs := rfl
@[simp] theorem State.countStep_pc : (s.countStep).pc = s.pc := rfl
@[simp] theorem State.countStep_status : (s.countStep).status = s.status := rfl
@[simp] theorem State.countStep_result : (s.countStep).result = s.result := rfl
@[simp] theorem State.countStep_termCause : (s.countStep).termCause = s.termCause := rfl
@[simp] theorem State.countStep_fault : (s.countStep).fault = s.fault := rfl
@[simp] theorem State.countStep_faultPc : (s.countStep).faultPc = s.faultPc := rfl
@[simp] theorem State.countStep_faultInfo : (s.countStep).faultInfo = s.faultInfo := rfl
@[simp] theorem State.countStep_steps : (s.countStep).steps = s.steps + 1 := rfl
@[simp] theorem State.countStep_mem : (s.countStep).mem = s.mem := rfl
@[simp] theorem State.countStep_prog : (s.countStep).prog = s.prog := rfl
@[simp] theorem State.countStep_helpers : (s.countStep).helpers = s.helpers := rfl
@[simp] theorem State.countStep_stackBase : (s.countStep).stackBase = s.stackBase := rfl
@[simp] theorem State.countStep_regions : (s.countStep).regions = s.regions := rfl
@[simp] theorem State.countStep_helperReq : (s.countStep).helperReq = s.helperReq := rfl
@[simp] theorem State.countStep_helperRsp : (s.countStep).helperRsp = s.helperRsp := rfl
@[simp] theorem State.countStep_startIn : (s.countStep).startIn = s.startIn := rfl
@[simp] theorem State.countStep_params : (s.countStep).params = s.params := rfl
@[simp] theorem State.countStep_draw : (s.countStep).draw = s.draw := rfl
@[simp] theorem State.countStep_reg (q : Reg) : (s.countStep).reg q = s.reg q := rfl
@[simp] theorem State.countStep_byteAt (x : Nat) : (s.countStep).byteAt x = s.byteAt x := rfl
@[simp] theorem State.countStep_nhelpers : (s.countStep).nhelpers = s.nhelpers := rfl
@[simp] theorem State.countStep_allRegions : (s.countStep).allRegions = s.allRegions := rfl

/-! ### `memWrite` -/

@[simp] theorem State.memWrite_regs (a n : Nat) (v : Word) : (s.memWrite a n v).regs = s.regs := rfl
@[simp] theorem State.memWrite_pc (a n : Nat) (v : Word) : (s.memWrite a n v).pc = s.pc := rfl
@[simp] theorem State.memWrite_status (a n : Nat) (v : Word) : (s.memWrite a n v).status = s.status := rfl
@[simp] theorem State.memWrite_result (a n : Nat) (v : Word) : (s.memWrite a n v).result = s.result := rfl
@[simp] theorem State.memWrite_termCause (a n : Nat) (v : Word) : (s.memWrite a n v).termCause = s.termCause := rfl
@[simp] theorem State.memWrite_fault (a n : Nat) (v : Word) : (s.memWrite a n v).fault = s.fault := rfl
@[simp] theorem State.memWrite_faultPc (a n : Nat) (v : Word) : (s.memWrite a n v).faultPc = s.faultPc := rfl
@[simp] theorem State.memWrite_faultInfo (a n : Nat) (v : Word) : (s.memWrite a n v).faultInfo = s.faultInfo := rfl
@[simp] theorem State.memWrite_steps (a n : Nat) (v : Word) : (s.memWrite a n v).steps = s.steps := rfl
@[simp] theorem State.memWrite_mem (a n : Nat) (v : Word) : (s.memWrite a n v).mem = s.mem.writeBytes a (toBytes s.params.byteOrder n v) := rfl
@[simp] theorem State.memWrite_prog (a n : Nat) (v : Word) : (s.memWrite a n v).prog = s.prog := rfl
@[simp] theorem State.memWrite_helpers (a n : Nat) (v : Word) : (s.memWrite a n v).helpers = s.helpers := rfl
@[simp] theorem State.memWrite_stackBase (a n : Nat) (v : Word) : (s.memWrite a n v).stackBase = s.stackBase := rfl
@[simp] theorem State.memWrite_regions (a n : Nat) (v : Word) : (s.memWrite a n v).regions = s.regions := rfl
@[simp] theorem State.memWrite_helperReq (a n : Nat) (v : Word) : (s.memWrite a n v).helperReq = s.helperReq := rfl
@[simp] theorem State.memWrite_helperRsp (a n : Nat) (v : Word) : (s.memWrite a n v).helperRsp = s.helperRsp := rfl
@[simp] theorem State.memWrite_startIn (a n : Nat) (v : Word) : (s.memWrite a n v).startIn = s.startIn := rfl
@[simp] theorem State.memWrite_params (a n : Nat) (v : Word) : (s.memWrite a n v).params = s.params := rfl
@[simp] theorem State.memWrite_draw (a n : Nat) (v : Word) : (s.memWrite a n v).draw = s.draw := rfl
@[simp] theorem State.memWrite_reg (a n : Nat) (v : Word) (q : Reg) : (s.memWrite a n v).reg q = s.reg q := rfl
@[simp] theorem State.memWrite_nhelpers (a n : Nat) (v : Word) : (s.memWrite a n v).nhelpers = s.nhelpers := rfl
@[simp] theorem State.memWrite_allRegions (a n : Nat) (v : Word) : (s.memWrite a n v).allRegions = s.allRegions := rfl

/-! ### `abort` -/

@[simp] theorem State.abort_regs (f : FaultCode) (info : Word) : (s.abort f info).regs = s.regs := rfl
@[simp] theorem State.abort_pc (f : FaultCode) (info : Word) : (s.abort f info).pc = s.pc := rfl
@[simp] theorem State.abort_status (f : FaultCode) (info : Word) : (s.abort f info).status = .aborted := rfl
@[simp] theorem State.abort_result (f : FaultCode) (info : Word) : (s.abort f info).result = 0 := rfl
@[simp] theorem State.abort_termCause (f : FaultCode) (info : Word) : (s.abort f info).termCause = s.termCause := rfl
@[simp] theorem State.abort_fault (f : FaultCode) (info : Word) : (s.abort f info).fault = f := rfl
@[simp] theorem State.abort_faultPc (f : FaultCode) (info : Word) : (s.abort f info).faultPc = s.pc := rfl
@[simp] theorem State.abort_faultInfo (f : FaultCode) (info : Word) : (s.abort f info).faultInfo = info := rfl
@[simp] theorem State.abort_steps (f : FaultCode) (info : Word) : (s.abort f info).steps = s.steps := rfl
@[simp] theorem State.abort_mem (f : FaultCode) (info : Word) : (s.abort f info).mem = s.mem := rfl
@[simp] theorem State.abort_prog (f : FaultCode) (info : Word) : (s.abort f info).prog = s.prog := rfl
@[simp] theorem State.abort_helpers (f : FaultCode) (info : Word) : (s.abort f info).helpers = s.helpers := rfl
@[simp] theorem State.abort_stackBase (f : FaultCode) (info : Word) : (s.abort f info).stackBase = s.stackBase := rfl
@[simp] theorem State.abort_regions (f : FaultCode) (info : Word) : (s.abort f info).regions = s.regions := rfl
@[simp] theorem State.abort_helperReq (f : FaultCode) (info : Word) : (s.abort f info).helperReq = s.helperReq := rfl
@[simp] theorem State.abort_helperRsp (f : FaultCode) (info : Word) : (s.abort f info).helperRsp = s.helperRsp := rfl
@[simp] theorem State.abort_startIn (f : FaultCode) (info : Word) : (s.abort f info).startIn = s.startIn := rfl
@[simp] theorem State.abort_params (f : FaultCode) (info : Word) : (s.abort f info).params = s.params := rfl
@[simp] theorem State.abort_draw (f : FaultCode) (info : Word) : (s.abort f info).draw = s.draw := rfl
@[simp] theorem State.abort_reg (f : FaultCode) (info : Word) (q : Reg) : (s.abort f info).reg q = s.reg q := rfl
@[simp] theorem State.abort_byteAt (f : FaultCode) (info : Word) (x : Nat) : (s.abort f info).byteAt x = s.byteAt x := rfl
@[simp] theorem State.abort_nhelpers (f : FaultCode) (info : Word) : (s.abort f info).nhelpers = s.nhelpers := rfl
@[simp] theorem State.abort_allRegions (f : FaultCode) (info : Word) : (s.abort f info).allRegions = s.allRegions := rfl

/-! ### `finish` -/

@[simp] theorem State.finish_regs (v : Word) (c : TermCause) : (s.finish v c).regs = s.regs := rfl
@[simp] theorem State.finish_pc (v : Word) (c : TermCause) : (s.finish v c).pc = s.pc + 1 := rfl
@[simp] theorem State.finish_status (v : Word) (c : TermCause) : (s.finish v c).status = .terminated := rfl
@[simp] theorem State.finish_result (v : Word) (c : TermCause) : (s.finish v c).result = v := rfl
@[simp] theorem State.finish_termCause (v : Word) (c : TermCause) : (s.finish v c).termCause = c := rfl
@[simp] theorem State.finish_fault (v : Word) (c : TermCause) : (s.finish v c).fault = .none := rfl
@[simp] theorem State.finish_faultPc (v : Word) (c : TermCause) : (s.finish v c).faultPc = s.faultPc := rfl
@[simp] theorem State.finish_faultInfo (v : Word) (c : TermCause) : (s.finish v c).faultInfo = 0 := rfl
@[simp] theorem State.finish_steps (v : Word) (c : TermCause) : (s.finish v c).steps = s.steps := rfl
@[simp] theorem State.finish_mem (v : Word) (c : TermCause) : (s.finish v c).mem = s.mem := rfl
@[simp] theorem State.finish_prog (v : Word) (c : TermCause) : (s.finish v c).prog = s.prog := rfl
@[simp] theorem State.finish_helpers (v : Word) (c : TermCause) : (s.finish v c).helpers = s.helpers := rfl
@[simp] theorem State.finish_stackBase (v : Word) (c : TermCause) : (s.finish v c).stackBase = s.stackBase := rfl
@[simp] theorem State.finish_regions (v : Word) (c : TermCause) : (s.finish v c).regions = s.regions := rfl
@[simp] theorem State.finish_helperReq (v : Word) (c : TermCause) : (s.finish v c).helperReq = s.helperReq := rfl
@[simp] theorem State.finish_helperRsp (v : Word) (c : TermCause) : (s.finish v c).helperRsp = s.helperRsp := rfl
@[simp] theorem State.finish_startIn (v : Word) (c : TermCause) : (s.finish v c).startIn = s.startIn := rfl
@[simp] theorem State.finish_params (v : Word) (c : TermCause) : (s.finish v c).params = s.params := rfl
@[simp] theorem State.finish_draw (v : Word) (c : TermCause) : (s.finish v c).draw = s.draw := rfl
@[simp] theorem State.finish_reg (v : Word) (c : TermCause) (q : Reg) : (s.finish v c).reg q = s.reg q := rfl
@[simp] theorem State.finish_byteAt (v : Word) (c : TermCause) (x : Nat) : (s.finish v c).byteAt x = s.byteAt x := rfl
@[simp] theorem State.finish_nhelpers (v : Word) (c : TermCause) : (s.finish v c).nhelpers = s.nhelpers := rfl
@[simp] theorem State.finish_allRegions (v : Word) (c : TermCause) : (s.finish v c).allRegions = s.allRegions := rfl

/-! ### `presentStart` -/

@[simp] theorem State.presentStart_regs (e : StartEvent) : (s.presentStart e).regs = s.regs := rfl
@[simp] theorem State.presentStart_pc (e : StartEvent) : (s.presentStart e).pc = s.pc := rfl
@[simp] theorem State.presentStart_status (e : StartEvent) : (s.presentStart e).status = s.status := rfl
@[simp] theorem State.presentStart_result (e : StartEvent) : (s.presentStart e).result = s.result := rfl
@[simp] theorem State.presentStart_termCause (e : StartEvent) : (s.presentStart e).termCause = s.termCause := rfl
@[simp] theorem State.presentStart_fault (e : StartEvent) : (s.presentStart e).fault = s.fault := rfl
@[simp] theorem State.presentStart_faultPc (e : StartEvent) : (s.presentStart e).faultPc = s.faultPc := rfl
@[simp] theorem State.presentStart_faultInfo (e : StartEvent) : (s.presentStart e).faultInfo = s.faultInfo := rfl
@[simp] theorem State.presentStart_steps (e : StartEvent) : (s.presentStart e).steps = s.steps := rfl
@[simp] theorem State.presentStart_mem (e : StartEvent) : (s.presentStart e).mem = s.mem := rfl
@[simp] theorem State.presentStart_prog (e : StartEvent) : (s.presentStart e).prog = s.prog := rfl
@[simp] theorem State.presentStart_helpers (e : StartEvent) : (s.presentStart e).helpers = s.helpers := rfl
@[simp] theorem State.presentStart_stackBase (e : StartEvent) : (s.presentStart e).stackBase = s.stackBase := rfl
@[simp] theorem State.presentStart_regions (e : StartEvent) : (s.presentStart e).regions = s.regions := rfl
@[simp] theorem State.presentStart_helperReq (e : StartEvent) : (s.presentStart e).helperReq = s.helperReq := rfl
@[simp] theorem State.presentStart_helperRsp (e : StartEvent) : (s.presentStart e).helperRsp = s.helperRsp := rfl
@[simp] theorem State.presentStart_startIn (e : StartEvent) : (s.presentStart e).startIn = some e := rfl
@[simp] theorem State.presentStart_params (e : StartEvent) : (s.presentStart e).params = s.params := rfl
@[simp] theorem State.presentStart_draw (e : StartEvent) : (s.presentStart e).draw = s.draw := rfl
@[simp] theorem State.presentStart_reg (e : StartEvent) (q : Reg) : (s.presentStart e).reg q = s.reg q := rfl
@[simp] theorem State.presentStart_byteAt (e : StartEvent) (x : Nat) : (s.presentStart e).byteAt x = s.byteAt x := rfl
@[simp] theorem State.presentStart_nhelpers (e : StartEvent) : (s.presentStart e).nhelpers = s.nhelpers := rfl
@[simp] theorem State.presentStart_allRegions (e : StartEvent) : (s.presentStart e).allRegions = s.allRegions := rfl

/-! ### `deliver` -/

@[simp] theorem State.deliver_regs (r : HelperResponse) : (s.deliver r).regs = s.regs := rfl
@[simp] theorem State.deliver_pc (r : HelperResponse) : (s.deliver r).pc = s.pc := rfl
@[simp] theorem State.deliver_status (r : HelperResponse) : (s.deliver r).status = s.status := rfl
@[simp] theorem State.deliver_result (r : HelperResponse) : (s.deliver r).result = s.result := rfl
@[simp] theorem State.deliver_termCause (r : HelperResponse) : (s.deliver r).termCause = s.termCause := rfl
@[simp] theorem State.deliver_fault (r : HelperResponse) : (s.deliver r).fault = s.fault := rfl
@[simp] theorem State.deliver_faultPc (r : HelperResponse) : (s.deliver r).faultPc = s.faultPc := rfl
@[simp] theorem State.deliver_faultInfo (r : HelperResponse) : (s.deliver r).faultInfo = s.faultInfo := rfl
@[simp] theorem State.deliver_steps (r : HelperResponse) : (s.deliver r).steps = s.steps := rfl
@[simp] theorem State.deliver_mem (r : HelperResponse) : (s.deliver r).mem = s.mem := rfl
@[simp] theorem State.deliver_prog (r : HelperResponse) : (s.deliver r).prog = s.prog := rfl
@[simp] theorem State.deliver_helpers (r : HelperResponse) : (s.deliver r).helpers = s.helpers := rfl
@[simp] theorem State.deliver_stackBase (r : HelperResponse) : (s.deliver r).stackBase = s.stackBase := rfl
@[simp] theorem State.deliver_regions (r : HelperResponse) : (s.deliver r).regions = s.regions := rfl
@[simp] theorem State.deliver_helperReq (r : HelperResponse) : (s.deliver r).helperReq = s.helperReq := rfl
@[simp] theorem State.deliver_helperRsp (r : HelperResponse) : (s.deliver r).helperRsp = s.helperRsp ++ [r] := rfl
@[simp] theorem State.deliver_startIn (r : HelperResponse) : (s.deliver r).startIn = s.startIn := rfl
@[simp] theorem State.deliver_params (r : HelperResponse) : (s.deliver r).params = s.params := rfl
@[simp] theorem State.deliver_draw (r : HelperResponse) : (s.deliver r).draw = s.draw := rfl
@[simp] theorem State.deliver_reg (r : HelperResponse) (q : Reg) : (s.deliver r).reg q = s.reg q := rfl
@[simp] theorem State.deliver_byteAt (r : HelperResponse) (x : Nat) : (s.deliver r).byteAt x = s.byteAt x := rfl
@[simp] theorem State.deliver_nhelpers (r : HelperResponse) : (s.deliver r).nhelpers = s.nhelpers := rfl
@[simp] theorem State.deliver_allRegions (r : HelperResponse) : (s.deliver r).allRegions = s.allRegions := rfl

/-! ### Registers -/

@[simp] theorem State.setReg_reg_same (r : Reg) (v : Word) : (s.setReg r v).reg r = v := by
  simp [State.reg, State.setReg]

theorem State.setReg_reg_ne (r q : Reg) (v : Word) (h : q ≠ r) : (s.setReg r v).reg q = s.reg q := by
  have h' : (r : Nat) ≠ q := fun e => h (Fin.ext e.symm)
  simp [State.reg, State.setReg, h']

theorem State.setReg_reg (r q : Reg) (v : Word) : (s.setReg r v).reg q = if q = r then v else s.reg q := by
  split
  · next h => subst h; simp
  · next h => exact s.setReg_reg_ne r q v h

end Sys2Proof.Machine
end

