-- ==== Sys2Proof/Laws/Memory.lean ====
section
/-! SUPPORT. Memory: reads after writes, the canonical form, byte order, and which bytes an access touches. -/

namespace Sys2Proof.Machine

/-! ### One byte -/

@[simp] theorem Memory.find_nil (a : Nat) : Memory.find [] a = none := rfl

theorem Memory.find_write (m : Memory) (a x : Nat) (v : Byte) :
    (m.write a v).find x = if x = a then some v else m.find x := by
  induction m with
  | nil => simp [Memory.write, Memory.find, Memory.unlisted]
  | cons c m ih =>
    unfold Memory.write
    split
    · simp [Memory.find]
    · split
      · next h => subst h; simp only [Memory.find]; split <;> rfl
      · next h =>
        simp only [Memory.find, ih]
        split
        · next hx => rw [if_neg (fun e => h (e.symm.trans hx))]
        · rfl

@[simp] theorem Memory.find_write_same (m : Memory) (a : Nat) (v : Byte) : (m.write a v).find a = some v := by
  simp [Memory.find_write]

theorem Memory.find_write_ne (m : Memory) (a x : Nat) (v : Byte) (h : x ≠ a) : (m.write a v).find x = m.find x := by
  simp [Memory.find_write, h]

/-! ### The canonical form -/

theorem Memory.allAbove_write (m : Memory) (b a : Nat) (v : Byte) (hb : b < a) (h : Memory.allAbove b m = true) :
    Memory.allAbove b (m.write a v) = true := by
  cases m with
  | nil => simpa [Memory.write, Memory.allAbove] using hb
  | cons c m =>
    simp only [Memory.allAbove, decide_eq_true_eq] at h
    unfold Memory.write
    split
    · simpa [Memory.allAbove] using hb
    · split <;> simpa [Memory.allAbove] using by omega

theorem Memory.wf_cons (c : Host.Cell) (m : Memory) :
    Memory.wf (c :: m) = true ↔ Memory.allAbove c.1 m = true ∧ m.wf = true := by
  simp [Memory.wf, Memory.unlisted]

/-- Writing a byte keeps the canonical form. -/
theorem Memory.wf_write (m : Memory) (a : Nat) (v : Byte) (h : m.wf = true) : (m.write a v).wf = true := by
  induction m with
  | nil => simp [Memory.write, Memory.wf, Memory.allAbove, Memory.unlisted]
  | cons c m ih =>
    obtain ⟨hc, hm⟩ := (Memory.wf_cons c m).1 h
    unfold Memory.write
    split
    · next hlt => exact (Memory.wf_cons _ _).2 ⟨by simpa [Memory.allAbove] using hlt, h⟩
    · split
      · next hne heq => exact (Memory.wf_cons _ _).2 ⟨by subst heq; exact hc, hm⟩
      · next hlt hne =>
        exact (Memory.wf_cons _ _).2 ⟨Memory.allAbove_write m c.1 a v (by omega) hc, ih hm⟩

/-- Writing bytes keeps the canonical form. -/
theorem Memory.wf_writeBytes (bs : List Byte) (m : Memory) (a : Nat) (h : m.wf = true) :
    (m.writeBytes a bs).wf = true := by
  induction bs generalizing m a with
  | nil => exact h
  | cons b bs ih => exact ih _ _ (Memory.wf_write m a b h)

theorem Memory.mem_write (m : Memory) (a : Nat) (v : Byte) (c : Host.Cell) (h : c ∈ m.write a v) :
    c.1 = a ∨ c ∈ m := by
  induction m with
  | nil => simp only [Memory.write, List.mem_singleton] at h; exact .inl (by rw [h])
  | cons d m ih =>
    unfold Memory.write at h
    split at h
    · rcases List.mem_cons.1 h with h | h
      · exact .inl (by rw [h])
      · exact .inr h
    · split at h
      · rcases List.mem_cons.1 h with h | h
        · exact .inl (by rw [h])
        · exact .inr (List.mem_cons_of_mem _ h)
      · rcases List.mem_cons.1 h with h | h
        · exact .inr (by simp [h])
        · exact (ih h).imp id (List.mem_cons_of_mem _)

/-- The listed addresses after a write of bytes are those before it and the written ones. -/
theorem Memory.mem_writeBytes (bs : List Byte) (m : Memory) (a : Nat) (c : Host.Cell) (h : c ∈ m.writeBytes a bs) :
    (a ≤ c.1 ∧ c.1 < a + bs.length) ∨ c ∈ m := by
  induction bs generalizing m a with
  | nil => exact .inr h
  | cons b bs ih =>
    rcases ih _ _ h with h | h
    · exact .inl (by simp only [List.length_cons]; omega)
    · rcases Memory.mem_write m a b c h with h | h
      · exact .inl (by simp only [List.length_cons]; omega)
      · exact .inr h

/-! ### Several bytes -/

theorem Memory.find_writeBytes_outside (bs : List Byte) (m : Memory) (a x : Nat) (h : x < a ∨ a + bs.length ≤ x) :
    (m.writeBytes a bs).find x = m.find x := by
  induction bs generalizing m a with
  | nil => rfl
  | cons b bs ih =>
    simp only [List.length_cons] at h
    rw [Memory.writeBytes, ih _ _ (by omega), Memory.find_write_ne _ _ _ _ (by omega)]

theorem Memory.find_writeBytes_inside (bs : List Byte) (m : Memory) (a i : Nat) (h : i < bs.length) :
    (m.writeBytes a bs).find (a + i) = some bs[i] := by
  induction bs generalizing m a i with
  | nil => simp at h
  | cons b bs ih =>
    cases i with
    | zero =>
      rw [Memory.writeBytes, Memory.find_writeBytes_outside _ _ _ _ (by omega)]
      simp
    | succ i =>
      have h' : i < bs.length := by simpa using h
      have := ih (m.write a b) (a + 1) i h'
      simpa [Memory.writeBytes, Nat.add_comm, Nat.add_left_comm, Nat.add_assoc] using this

/-! ### Byte order -/

@[simp] theorem toBytesLE_length (n : Nat) (v : Word) : (toBytesLE n v).length = n := by
  induction n generalizing v with
  | zero => rfl
  | succ n ih => simp [toBytesLE, ih]

@[simp] theorem toBytes_length (o : ByteOrder) (n : Nat) (v : Word) : (toBytes o n v).length = n := by
  cases o <;> simp [toBytes]

/-- Byte `i` of a value, least significant first. -/
theorem toBytesLE_getElem (n : Nat) (v : Word) (i : Nat) (h : i < (toBytesLE n v).length) :
    ((toBytesLE n v)[i]).toNat = byteOf v.toNat i := by
  induction n generalizing v i with
  | zero => simp [toBytesLE] at h
  | succ n ih =>
    cases i with
    | zero => simp [toBytesLE, byteOf]
    | succ i =>
      have h' : i < (toBytesLE n (v >>> 8)).length := by simpa using h
      have := ih (v >>> 8) i h'
      simp only [toBytesLE, List.getElem_cons_succ, this, byteOf, BitVec.toNat_ushiftRight, Nat.shiftRight_eq_div_pow,
        Nat.div_div_eq_div_mul]
      congr 2
      show 2 ^ 8 * 256 ^ i = 256 ^ (i + 1)
      rw [pow_succ (256 : Nat) i, Nat.mul_comm]

/-- Byte `i` of a value at rising addresses. -/
theorem toBytes_getElem (o : ByteOrder) (n : Nat) (v : Word) (i : Nat) (h : i < (toBytes o n v).length) :
    ((toBytes o n v)[i]).toNat = byteOf v.toNat (placeOf o n i) := by
  cases o with
  | little => exact toBytesLE_getElem n v i h
  | big =>
    simp only [toBytes, List.getElem_reverse, toBytesLE_getElem, placeOf, toBytesLE_length]

/-- The value of at most eight bytes, least significant first, as a sum. -/
theorem ofBytesLE_toNat (bs : List Byte) (h : bs.length ≤ 8) :
    (ofBytesLE bs).toNat = ∑ i ∈ Finset.range bs.length, (bs.getD i 0).toNat * 256 ^ i ∧
      (ofBytesLE bs).toNat < 256 ^ bs.length := by
  induction bs with
  | nil => simp [ofBytesLE]
  | cons b bs ih =>
    simp only [List.length_cons] at h ⊢
    obtain ⟨hs, hlt⟩ := ih (by omega)
    have hb : b.toNat < 256 := b.isLt
    have hp : (256 : Nat) ^ bs.length ≤ 256 ^ 7 := Nat.pow_le_pow_right (by norm_num) (by omega)
    have hsh : (ofBytesLE bs <<< 8).toNat = (ofBytesLE bs).toNat <<< 8 := by
      rw [BitVec.toNat_shiftLeft, Nat.shiftLeft_eq, Nat.mod_eq_of_lt]
      have : (ofBytesLE bs).toNat < 256 ^ 7 := lt_of_lt_of_le hlt hp
      norm_num at this ⊢
      omega
    have hv : (ofBytesLE (b :: bs)).toNat = b.toNat + 256 * (ofBytesLE bs).toNat := by
      have h1 : (b.setWidth 64).toNat = b.toNat := by
        rw [BitVec.toNat_setWidth]
        exact Nat.mod_eq_of_lt (by omega)
      rw [ofBytesLE, BitVec.toNat_or, h1, hsh, Nat.or_comm,
        ← Nat.shiftLeft_add_eq_or_of_lt (show b.toNat < 2 ^ 8 from hb), Nat.shiftLeft_eq]
      omega
    constructor
    · rw [Finset.sum_range_succ', hv, hs]
      simp only [List.getD_cons_succ, List.getD_cons_zero, pow_zero, mul_one]
      rw [Nat.add_comm, Finset.mul_sum]
      congr 1
      refine Finset.sum_congr rfl fun i _ => ?_
      rw [pow_succ]; ring
    · rw [hv, pow_succ]
      omega

/-- Byte `j` of the value of a list of bytes is the list's byte `j`. -/
theorem byteOf_ofBytesLE (bs : List Byte) (h : bs.length ≤ 8) (j : Nat) (hj : j < bs.length) :
    byteOf (ofBytesLE bs).toNat j = (bs[j]).toNat := by
  induction bs generalizing j with
  | nil => simp at hj
  | cons b bs ih =>
    simp only [List.length_cons] at h hj
    have hlt := (ofBytesLE_toNat bs (by omega)).2
    have hb : b.toNat < 256 := b.isLt
    have hp : (256 : Nat) ^ bs.length ≤ 256 ^ 7 := Nat.pow_le_pow_right (by norm_num) (by omega)
    have hv : (ofBytesLE (b :: bs)).toNat = b.toNat + 256 * (ofBytesLE bs).toNat := by
      have h1 : (b.setWidth 64).toNat = b.toNat := by
        rw [BitVec.toNat_setWidth]
        exact Nat.mod_eq_of_lt (by omega)
      have hsh : (ofBytesLE bs <<< 8).toNat = (ofBytesLE bs).toNat <<< 8 := by
        rw [BitVec.toNat_shiftLeft, Nat.shiftLeft_eq, Nat.mod_eq_of_lt]
        have : (ofBytesLE bs).toNat < 256 ^ 7 := lt_of_lt_of_le hlt hp
        norm_num at this ⊢
        omega
      rw [ofBytesLE, BitVec.toNat_or, h1, hsh, Nat.or_comm,
        ← Nat.shiftLeft_add_eq_or_of_lt (show b.toNat < 2 ^ 8 from hb), Nat.shiftLeft_eq]
      omega
    rw [hv]
    cases j with
    | zero => simp [byteOf]; omega
    | succ j =>
      simp only [List.getElem_cons_succ]
      rw [← ih (by omega) j (by omega)]
      simp only [byteOf]
      rw [pow_succ, Nat.mul_comm (256 ^ j), ← Nat.div_div_eq_div_mul]
      congr 2
      omega

theorem ofBytesLE_reverse_toNat (bs : List Byte) (h : bs.length ≤ 8) :
    (ofBytesLE bs.reverse).toNat = ∑ i ∈ Finset.range bs.length, (bs.getD i 0).toNat * 256 ^ (bs.length - 1 - i) := by
  rw [(ofBytesLE_toNat bs.reverse (by simpa using h)).1, List.length_reverse, ← Finset.sum_range_reflect]
  refine Finset.sum_congr rfl fun i hi => ?_
  have hi' : i < bs.length := Finset.mem_range.1 hi
  rw [List.getD_eq_getElem _ _ (by simp; omega), List.getD_eq_getElem _ _ hi', List.getElem_reverse]
  congr 3
  omega

/-! ### Reads and writes of the state -/

@[simp] theorem State.bytesAt_length (s : State) (a n : Nat) : (s.bytesAt a n).length = n := by
  induction n generalizing a with
  | zero => rfl
  | succ n ih => simp [State.bytesAt, ih]

theorem State.bytesAt_getElem (s : State) (a n i : Nat) (h : i < (s.bytesAt a n).length) :
    (s.bytesAt a n)[i] = s.byteAt (a + i) := by
  induction n generalizing a i with
  | zero => simp [State.bytesAt] at h
  | succ n ih =>
    cases i with
    | zero => rfl
    | succ i =>
      have := ih (a + 1) i (by simpa using h)
      simpa [State.bytesAt, Nat.add_comm, Nat.add_left_comm, Nat.add_assoc] using this

/-- `MemRead` is the sum of its bytes at the places the byte order gives them (R53, R57). -/
theorem State.memRead_toNat (s : State) (a n : Nat) (h : n ≤ 8) : (s.memRead a n).toNat = valueAt s a n := by
  have hb : ∀ i ∈ Finset.range n, ((s.bytesAt a n).getD i 0) = s.byteAt (a + i) := fun i hi => by
    have hi' : i < (s.bytesAt a n).length := by simpa using Finset.mem_range.1 hi
    rw [List.getD_eq_getElem _ _ hi', s.bytesAt_getElem a n i hi']
  unfold State.memRead valueAt ofBytes
  cases s.params.byteOrder with
  | little =>
    simp only [(ofBytesLE_toNat (s.bytesAt a n) (by simpa using h)).1, State.bytesAt_length, placeOf]
    exact Finset.sum_congr rfl fun i hi => by rw [hb i hi]
  | big =>
    simp only [ofBytesLE_reverse_toNat (s.bytesAt a n) (by simpa using h), State.bytesAt_length, placeOf]
    exact Finset.sum_congr rfl fun i hi => by rw [hb i hi]

/-- A read of `n` bytes is below `2^(8n)`: a loaded value is zero-extended (R201). -/
theorem State.memRead_lt (s : State) (a n : Nat) (h : n ≤ 8) : (s.memRead a n).toNat < 256 ^ n := by
  unfold State.memRead ofBytes
  cases s.params.byteOrder with
  | little => simpa using (ofBytesLE_toNat (s.bytesAt a n) (by simpa using h)).2
  | big => simpa using (ofBytesLE_toNat (s.bytesAt a n).reverse (by simpa using h)).2

/-- A write leaves every byte outside its `n` bytes alone. -/
theorem State.memWrite_byteAt_outside (s : State) (a n : Nat) (v : Word) (x : Nat) (h : x < a ∨ a + n ≤ x) :
    (s.memWrite a n v).byteAt x = s.byteAt x := by
  unfold State.byteAt
  rw [State.memWrite_mem, Memory.find_writeBytes_outside _ _ _ _ (by simpa using h)]
  rfl

/-- A write puts the low bytes of its value at the places the byte order gives them (R53, R57). -/
theorem State.memWrite_byteAt_inside (s : State) (a n : Nat) (v : Word) (i : Nat) (h : i < n) :
    ((s.memWrite a n v).byteAt (a + i)).toNat = byteOf v.toNat (placeOf s.params.byteOrder n i) := by
  have h' : i < (toBytes s.params.byteOrder n v).length := by simpa using h
  unfold State.byteAt
  rw [State.memWrite_mem, Memory.find_writeBytes_inside _ _ _ _ h', Option.getD_some]
  exact toBytes_getElem _ _ _ _ h'

/-! ### Admission (R55) -/

theorem Region.covers_iff (r : Region) (a n : Nat) : r.covers a n = true ↔ Within r a n := by
  simp [Region.covers, Within]

theorem State.admitsRead_iff (s : State) (a n : Nat) : s.admitsRead a n = true ↔ Readable s a n := by
  simp [State.admitsRead, State.allRegions, State.stackRegion, Readable, Region.covers_iff, List.any_eq_true]

theorem State.admitsWrite_iff (s : State) (a n : Nat) : s.admitsWrite a n = true ↔ Writable s a n := by
  simp [State.admitsWrite, State.allRegions, State.stackRegion, Writable, Region.covers_iff, List.any_eq_true]

theorem Writable.readable {s : State} {a n : Nat} (h : Writable s a n) : Readable s a n :=
  h.imp id fun ⟨r, hr, _, hw⟩ => ⟨r, hr, hw⟩

theorem Within.byte {r : Region} {a n x : Nat} (h : Within r a n) (h1 : a ≤ x) (h2 : x < a + n) : Within r x 1 := by
  unfold Within at *; omega

/-- Every byte of a writable range is writable. -/
theorem Writable.byte {s : State} {a n x : Nat} (h : Writable s a n) (h1 : a ≤ x) (h2 : x < a + n) : Writable s x 1 :=
  h.imp (·.byte h1 h2) fun ⟨r, hr, hb, hw⟩ => ⟨r, hr, hb, hw.byte h1 h2⟩

/-- Every byte of a readable range is readable. -/
theorem Readable.byte {s : State} {a n x : Nat} (h : Readable s a n) (h1 : a ≤ x) (h2 : x < a + n) : Readable s x 1 :=
  h.imp (·.byte h1 h2) fun ⟨r, hr, hw⟩ => ⟨r, hr, hw.byte h1 h2⟩

theorem State.misaligned_iff (s : State) (a n : Nat) : s.misaligned a n = false ↔ AlignedOrAllowed s a n := by
  cases h : s.params.allowMisaligned <;> simp [State.misaligned, AlignedOrAllowed, h]

end Sys2Proof.Machine
end

