-- ==== Sys2Proof/Laws/Ops.lean ====
section
/-! SUPPORT. What each shared operation, `exec` and `step` can do, said once; provers cite these and do not unfold. -/

namespace Sys2Proof.Machine

/-! ### The shared operations -/

/-- Everything an instruction can do to the state: write one register, set the pc, end the run, store admitted bytes,
take a helper's answer, or wait for one. -/
inductive Shape (s : State) : State → Prop where
  | reg (dst : Reg) (v : Word) (n : Nat) : Shape s ((s.setReg dst v).advance n)
  | jump (p : Int) : Shape s (s.setPc p)
  | abort (f : FaultCode) (info : Word) (h : f ≠ .none) : Shape s (s.abort f info)
  | finish (v : Word) (c : TermCause) : Shape s (s.finish v c)
  | store (a n : Nat) (v : Word) (h : Writable s a n) : Shape s ((s.memWrite a n v).advance 1)
  | answer (k : Nat) (r : HelperResponse) (rest : List HelperResponse) (h : s.helperRsp = r :: rest)
      (ha : HelperAllows s (helperRequest k s) r) : Shape s (finishCall r { s with helperRsp := rest })
  | wait (k : Nat) (hk : k < s.nhelpers)
      (h : ∀ r rest, s.helperRsp = r :: rest → ¬HelperAllows s (helperRequest k s) r) :
      Shape s { s with helperReq := some (helperRequest k s) }

/-- The answer is a next state of one of the shapes. -/
def Shaped (s : State) (o : Out) : Prop := ∃ t, o = .next t ∧ Shape s t

theorem raise_shaped (f : FaultCode) (info : Word) (s : State) (h : f ≠ .none) : Shaped s (raise f info s) :=
  ⟨_, rfl, .abort f info h⟩

theorem terminate_shaped (v : Word) (c : TermCause) (s : State) : Shaped s (terminate v c s) := ⟨_, rfl, .finish v c⟩

theorem writeReg_shaped (dst : Reg) (v : Word) (s : State) : Shaped s (writeReg dst v s) := ⟨_, rfl, .reg dst v 1⟩

theorem writeReg32_shaped (dst : Reg) (v : BitVec 32) (s : State) : Shaped s (writeReg32 dst v s) :=
  writeReg_shaped _ _ s

theorem divide32_shaped (f : BitVec 32 → BitVec 32 → BitVec 32) (dst : Reg) (b : BitVec 32) (s : State) :
    Shaped s (divide32 f dst b s) := by
  unfold divide32
  split
  · exact terminate_shaped _ _ _
  · exact writeReg32_shaped _ _ _

theorem divide64_shaped (f : Word → Word → Word) (dst : Reg) (b : Word) (s : State) :
    Shaped s (divide64 f dst b s) := by
  unfold divide64
  split
  · exact terminate_shaped _ _ _
  · exact writeReg_shaped _ _ _

/-- A branch goes to the target or to the next slot. -/
theorem branch_eq (c : Bool) (off : BitVec 16) (s : State) :
    branch c off s = .next (s.setPc (if c then jumpTarget s off else s.pc + 1)) := by
  cases c <;> rfl

theorem branch_shaped (c : Bool) (off : BitVec 16) (s : State) : Shaped s (branch c off s) :=
  ⟨_, branch_eq c off s, .jump _⟩

/-- The three ways a load goes (R219). -/
theorem load_cases (n : Nat) (dst base : Reg) (off : BitVec 16) (s : State) :
    (¬Readable s (effAddr s base off).toNat n ∧
      load n dst base off s = .next (s.abort .outOfBoundsMemoryAccess (effAddr s base off))) ∨
    (Readable s (effAddr s base off).toNat n ∧ ¬AlignedOrAllowed s (effAddr s base off).toNat n ∧
      load n dst base off s = .next (s.abort .misalignedAccess (effAddr s base off))) ∨
    (Readable s (effAddr s base off).toNat n ∧ AlignedOrAllowed s (effAddr s base off).toNat n ∧
      load n dst base off s = .next ((s.setReg dst (s.memRead (effAddr s base off).toNat n)).advance 1)) := by
  simp only [← State.admitsRead_iff, ← State.misaligned_iff, load, raise, writeReg]
  cases s.admitsRead (effAddr s base off).toNat n <;> cases s.misaligned (effAddr s base off).toNat n <;> simp

theorem load_shaped (n : Nat) (dst base : Reg) (off : BitVec 16) (s : State) : Shaped s (load n dst base off s) := by
  rcases load_cases n dst base off s with ⟨_, h⟩ | ⟨_, _, h⟩ | ⟨_, _, h⟩
  · exact ⟨_, h, .abort _ _ (by decide)⟩
  · exact ⟨_, h, .abort _ _ (by decide)⟩
  · exact ⟨_, h, .reg _ _ 1⟩

/-- The three ways a store goes (R219). -/
theorem store_cases (n : Nat) (base : Reg) (off : BitVec 16) (v : Word) (s : State) :
    (¬Writable s (effAddr s base off).toNat n ∧
      store n base off v s = .next (s.abort .outOfBoundsMemoryAccess (effAddr s base off))) ∨
    (Writable s (effAddr s base off).toNat n ∧ ¬AlignedOrAllowed s (effAddr s base off).toNat n ∧
      store n base off v s = .next (s.abort .misalignedAccess (effAddr s base off))) ∨
    (Writable s (effAddr s base off).toNat n ∧ AlignedOrAllowed s (effAddr s base off).toNat n ∧
      store n base off v s = .next ((s.memWrite (effAddr s base off).toNat n v).advance 1)) := by
  simp only [← State.admitsWrite_iff, ← State.misaligned_iff, store, raise]
  cases s.admitsWrite (effAddr s base off).toNat n <;> cases s.misaligned (effAddr s base off).toNat n <;> simp

theorem store_shaped (n : Nat) (base : Reg) (off : BitVec 16) (v : Word) (s : State) :
    Shaped s (store n base off v s) := by
  rcases store_cases n base off v s with ⟨_, h⟩ | ⟨_, _, h⟩ | ⟨hw, _, h⟩
  · exact ⟨_, h, .abort _ _ (by decide)⟩
  · exact ⟨_, h, .abort _ _ (by decide)⟩
  · exact ⟨_, h, .store _ _ _ hw⟩

/-! ### The relation of a helper (R232) -/

theorem agrees_iff (o : Option Word) (v : Word) : agrees o v = true ↔ Fits o v := by
  cases o with
  | none => simp [agrees, Fits]
  | some w => simpa [agrees, Fits] using ⟨Eq.symm, Eq.symm⟩

theorem byteAfter_eq_lastWrite (cs : List Host.Cell) (a : Nat) (d : Byte) : byteAfter cs a d = lastWrite cs a d := by
  induction cs generalizing d with
  | nil => rfl
  | cons c cs ih => simp only [byteAfter, ih, lastWrite, List.foldl_cons, eq_comm (a := a)]

/-- An address no cell names keeps its byte. -/
theorem lastWrite_of_not_named (cs : List Host.Cell) (a : Nat) (d : Byte) (h : ∀ c ∈ cs, c.1 ≠ a) :
    lastWrite cs a d = d := by
  induction cs generalizing d with
  | nil => rfl
  | cons c cs ih =>
    have hc : c.1 ≠ a := h c List.mem_cons_self
    simpa [lastWrite, hc] using ih d fun e he => h e (List.mem_cons_of_mem c he)

theorem State.holds_iff (s : State) (cs : List Host.Cell) :
    s.holds cs = true ↔ ∀ c ∈ cs, Readable s c.1 1 ∧ s.byteAt c.1 = c.2 := by
  simp only [State.holds, List.all_eq_true, Bool.and_eq_true, State.admitsRead_iff, beq_iff_eq]

/-- Comparing the named writable bytes compares all writable bytes. -/
theorem State.sameEffect_iff (s : State) (ws vs : List Host.Cell) : s.sameEffect ws vs = true ↔
    ∀ a, Writable s a 1 → lastWrite vs a (s.byteAt a) = lastWrite ws a (s.byteAt a) := by
  simp only [State.sameEffect, List.all_eq_true, Bool.or_eq_true, Bool.not_eq_true', ← Bool.not_eq_true,
    State.admitsWrite_iff, beq_iff_eq, byteAfter_eq_lastWrite, ← imp_iff_not_or]
  constructor
  · intro h a ha
    by_cases hn : ∃ c ∈ ws ++ vs, c.1 = a
    · obtain ⟨c, hc, rfl⟩ := hn
      exact (h c hc ha).symm
    · push Not at hn
      rw [lastWrite_of_not_named vs a _ fun c hc => hn c (List.mem_append_right ws hc),
        lastWrite_of_not_named ws a _ fun c hc => hn c (List.mem_append_left vs hc)]
  · intro h c _ hc
    exact (h c.1 hc).symm

theorem HelperRow.allows_iff (row : HelperRow) (q : HelperRequest) (r : HelperResponse) (s : State) :
    row.allows q r s = true ↔ RowAllows row q r s := by
  have hm : s.agreesMemory row.writes r.writes = true ↔ ∀ ws, row.writes = some ws → ∀ a, Writable s a 1 →
      lastWrite r.writes a (s.byteAt a) = lastWrite ws a (s.byteAt a) := by
    cases row.writes <;> simp [State.agreesMemory, State.sameEffect_iff]
  simp only [HelperRow.allows, HelperRow.forArgs, Bool.and_eq_true, agrees_iff, State.holds_iff, hm]
  constructor
  · rintro ⟨⟨⟨⟨⟨⟨⟨h1, h2⟩, h3⟩, h4⟩, h5⟩, hr⟩, hv⟩, hw⟩
    exact ⟨⟨h1, h2, h3, h4, h5, hr⟩, hv, hw⟩
  · rintro ⟨⟨h1, h2, h3, h4, h5, hr⟩, hv, hw⟩
    exact ⟨⟨⟨⟨⟨⟨⟨h1, h2⟩, h3⟩, h4⟩, h5⟩, hr⟩, hv⟩, hw⟩

/-- The check of an answer is the relation of R232. -/
theorem State.allowsAnswer_iff (s : State) (q : HelperRequest) (r : HelperResponse) :
    s.allowsAnswer q r = true ↔ HelperAllows s q r := by
  unfold State.allowsAnswer HelperAllows
  split
  · next h he => rw [he]; cases h <;> simp [HelperSpec.allows, HelperRow.allows_iff]
  · next he => simp [he]

/-- An answer is taken exactly where the helper may give it. -/
theorem takeAnswer_cases (q : HelperRequest) (s : State) :
    (∃ r rest, s.helperRsp = r :: rest ∧ HelperAllows s q r ∧
      takeAnswer q s = some (finishCall r { s with helperRsp := rest })) ∨
    ((∀ r rest, s.helperRsp = r :: rest → ¬HelperAllows s q r) ∧ takeAnswer q s = none) := by
  unfold takeAnswer
  cases hr : s.helperRsp with
  | nil => exact .inr ⟨by simp, rfl⟩
  | cons r rest =>
    by_cases h : HelperAllows s q r
    · exact .inl ⟨r, rest, rfl, h, if_pos ((State.allowsAnswer_iff s q r).2 h)⟩
    · refine .inr ⟨?_, if_neg fun e => h ((State.allowsAnswer_iff s q r).1 e)⟩
      rintro _ _ e
      cases e
      exact h

/-- The three ways a CALL goes (R230, R231, R233). -/
theorem execCall_cases (imm : BitVec 32) (s : State) :
    ((helperIndex imm < 0 ∨ (s.nhelpers : Int) ≤ helperIndex imm) ∧
      execCall imm s = .next (s.abort .helperIndexOutOfRange (imm.signExtend 64))) ∨
    (∃ k : Nat, helperIndex imm = k ∧ k < s.nhelpers ∧
      ((∃ r rest, s.helperRsp = r :: rest ∧ HelperAllows s (helperRequest k s) r ∧
          execCall imm s = .next (finishCall r { s with helperRsp := rest })) ∨
        ((∀ r rest, s.helperRsp = r :: rest → ¬HelperAllows s (helperRequest k s) r) ∧
          execCall imm s = .next { s with helperReq := some (helperRequest k s) }))) := by
  unfold execCall
  split
  · next h => exact .inl ⟨h, rfl⟩
  · next h =>
    refine .inr ⟨(helperIndex imm).toNat, by omega, by omega, ?_⟩
    unfold callHelper
    rcases takeAnswer_cases (helperRequest (helperIndex imm).toNat s) s with ⟨r, rest, hr, ha, ht⟩ | ⟨hn, ht⟩
    · exact .inl ⟨r, rest, hr, ha, by rw [ht]; rfl⟩
    · exact .inr ⟨hn, by rw [ht]; rfl⟩

theorem execCall_shaped (imm : BitVec 32) (s : State) : Shaped s (execCall imm s) := by
  rcases execCall_cases imm s with ⟨_, h⟩ | ⟨k, _, hk, ⟨r, rest, hr, ha, h⟩ | ⟨hn, h⟩⟩
  · exact ⟨_, h, .abort _ _ (by decide)⟩
  · exact ⟨_, h, .answer k r rest hr ha⟩
  · exact ⟨_, h, .wait k hk hn⟩

/-- The three ways a waiting core goes (R231, R232). -/
theorem resumeCall_cases (q : HelperRequest) (s : State) :
    (∃ r rest, s.helperRsp = r :: rest ∧ HelperAllows s q r ∧
      resumeCall q s = .next (finishCall r { s with helperRsp := rest })) ∨
    (s.helperRsp = [] ∧ resumeCall q s = .fault .helperPending) ∨
    (∃ r rest, s.helperRsp = r :: rest ∧ ¬HelperAllows s q r ∧
      resumeCall q s = .refused .helperAnswerForbidden) := by
  unfold resumeCall
  rcases takeAnswer_cases q s with ⟨r, rest, hr, ha, ht⟩ | ⟨hn, ht⟩
  · exact .inl ⟨r, rest, hr, ha, by rw [ht]⟩
  · rw [ht]
    cases hr : s.helperRsp with
    | nil => exact .inr (.inl ⟨rfl, rfl⟩)
    | cons r rest => exact .inr (.inr ⟨r, rest, rfl, hn r rest hr, rfl⟩)

/-! ### A helper's writes (R232) -/

theorem State.admitsWrite_congr (s t : State) (hb : t.stackBase = s.stackBase) (hp : t.params = s.params)
    (hr : t.regions = s.regions) (a n : Nat) : t.admitsWrite a n = s.admitsWrite a n := by
  simp [State.admitsWrite, State.allRegions, State.stackRegion, hb, hp, hr]

theorem State.helperWrites_wf (s : State) (cs : List Host.Cell) (m : Memory) (h : m.wf = true) :
    (s.helperWrites cs m).wf = true := by
  induction cs generalizing m with
  | nil => exact h
  | cons c cs ih =>
    unfold State.helperWrites
    split
    · exact ih _ (Memory.wf_write _ _ _ h)
    · exact ih _ h

/-- A helper leaves every byte outside the writable regions alone. -/
theorem State.helperWrites_find_outside (s : State) (cs : List Host.Cell) (m : Memory) (x : Nat)
    (h : s.admitsWrite x 1 = false) : (s.helperWrites cs m).find x = m.find x := by
  induction cs generalizing m with
  | nil => rfl
  | cons c cs ih =>
    unfold State.helperWrites
    rw [ih]
    split
    · next hc => exact Memory.find_write_ne _ _ _ _ (fun e => by rw [e, hc] at h; exact Bool.noConfusion h)
    · rfl

theorem State.helperWrites_mem (s : State) (cs : List Host.Cell) (m : Memory) (c : Host.Cell)
    (h : c ∈ s.helperWrites cs m) : s.admitsWrite c.1 1 = true ∨ c ∈ m := by
  induction cs generalizing m with
  | nil => exact .inr h
  | cons d cs ih =>
    unfold State.helperWrites at h
    rcases ih _ h with h | h
    · exact .inl h
    · split at h
      · next hd =>
        rcases Memory.mem_write _ _ _ _ h with e | h
        · exact .inl (by rw [e]; exact hd)
        · exact .inr h
      · exact .inr h

/-- A byte of a writable region holds what the helper wrote last there (R232). -/
theorem State.helperWrites_find (m : Memory) (s : State) (cs : List Host.Cell) (a : Nat) (d : Byte)
    (h : s.admitsWrite a 1 = true) :
    ((s.helperWrites cs m).find a).getD d = lastWrite cs a ((m.find a).getD d) := by
  induction cs generalizing m with
  | nil => rfl
  | cons c cs ih =>
    unfold State.helperWrites
    rw [ih]
    simp only [lastWrite, List.foldl_cons]
    congr 1
    by_cases hc : c.1 = a
    · rw [if_pos hc, if_pos (by rw [hc]; exact h), hc]; simp
    · rw [if_neg hc]
      split
      · rw [Memory.find_write_ne _ _ _ _ (fun e => hc e.symm)]
      · rfl

/-- A helper's answer leaves every byte outside the writable regions alone. -/
theorem finishCall_byteAt_outside (s : State) (r : HelperResponse) (rest) (a : Nat) (h : ¬ Writable s a 1) :
    (finishCall r { s with helperRsp := rest }).byteAt a = s.byteAt a := by
  have h' : State.admitsWrite { s with helperRsp := rest } a 1 = false := by
    rw [← Bool.not_eq_true, State.admitsWrite_iff]; exact h
  have := State.helperWrites_find_outside { s with helperRsp := rest } r.writes s.mem a h'
  show ((State.helperWrites { s with helperRsp := rest } r.writes s.mem).find a).getD _ = _
  rw [this]; rfl

/-- A helper's answer gives each writable byte what it wrote last there. -/
theorem finishCall_byteAt_writable (s : State) (r : HelperResponse) (rest) (a : Nat) (h : Writable s a 1) :
    (finishCall r { s with helperRsp := rest }).byteAt a = lastWrite r.writes a (s.byteAt a) := by
  have h' : State.admitsWrite { s with helperRsp := rest } a 1 = true := by
    rw [State.admitsWrite_iff]; exact h
  exact State.helperWrites_find s.mem { s with helperRsp := rest } r.writes a _ h'

/-- A helper's answer writes `x[0]` and no other register. -/
theorem finishCall_reg (s : State) (r : HelperResponse) (rest) :
    (finishCall r { s with helperRsp := rest }).reg 0 = r.result ∧
      ∀ q, q ≠ 0 → (finishCall r { s with helperRsp := rest }).reg q = s.reg q := by
  constructor
  · exact State.setReg_reg_same { s with mem := _, helperReq := none, helperRsp := rest } 0 r.result
  · intro q hq
    exact State.setReg_reg_ne { s with mem := _, helperReq := none, helperRsp := rest } 0 q r.result hq

/-- Everything a helper's answer leaves (R230, R232). -/
theorem finishCall_answeredBy (s : State) (r : HelperResponse) (rest) :
    AnsweredBy r rest s (finishCall r { s with helperRsp := rest }) where
  result := (finishCall_reg s r rest).1
  regs := (finishCall_reg s r rest).2
  pc := rfl
  written := finishCall_byteAt_writable s r rest
  unwritten := finishCall_byteAt_outside s r rest
  helperReq := rfl
  helperRsp := rfl
  startIn := rfl
  status := ⟨rfl, rfl, rfl, rfl, rfl, rfl, rfl⟩
  setting := ⟨rfl, rfl, rfl, rfl, rfl, rfl⟩

/-! ### exec -/

/-- Every instruction answers a next state, of one of the shapes. -/
theorem exec_shaped (i : Instr) (s : State) : Shaped s (exec i s) := by
  cases i
  case ja => exact ⟨_, rfl, .jump _⟩
  case exit => exact terminate_shaped _ _ _
  case call => exact execCall_shaped _ _
  case lddw => exact ⟨_, rfl, .reg _ _ 2⟩
  case add32K | add32X | sub32K | sub32X | mul32K | mul32X | or32K | or32X | and32K | and32X | lsh32K | lsh32X |
      rsh32K | rsh32X | neg32 | xor32K | xor32X | mov32K | mov32X | arsh32K | arsh32X =>
    exact writeReg32_shaped _ _ _
  case div32K | div32X | mod32K | mod32X =>
    exact divide32_shaped _ _ _ _
  case addK | addX | subK | subX | mulK | mulX | orK | orX | andK | andX | lshK | lshX | rshK | rshX | neg | xorK |
      xorX | movK | movX | arshK | arshX | le16 | le32 | le64 | be16 | be32 | be64 | le16Alu64 | le32Alu64 |
      le64Alu64 | be16Alu64 | be32Alu64 | be64Alu64 =>
    exact writeReg_shaped _ _ _
  case divK | divX | modK | modX =>
    exact divide64_shaped _ _ _ _
  case jeqK | jeqX | jgtK | jgtX | jgeK | jgeX | jsetK | jsetX | jneK | jneX | jsgtK | jsgtX | jsgeK | jsgeX | jltK |
      jltX | jleK | jleX | jsltK | jsltX | jsleK | jsleX | jeq32K | jeq32X | jgt32K | jgt32X | jge32K | jge32X |
      jset32K | jset32X | jne32K | jne32X | jsgt32K | jsgt32X | jsge32K | jsge32X | jlt32K | jlt32X | jle32K |
      jle32X | jslt32K | jslt32X | jsle32K | jsle32X =>
    exact branch_shaped _ _ _
  case ldxw | ldxh | ldxb | ldxdw =>
    exact load_shaped _ _ _ _ _
  case stw | sth | stb | stdw | stxw | stxh | stxb | stxdw =>
    exact store_shaped _ _ _ _ _
  case faultMode7 | faultOp14Or15 | modeAbs | modeInd | modeLen | modeMsh | modeXadd | noRule00 | noRule08 |
      noRule10 | noRule60 | noRule68 | noRule70 | noRule78 | noRule01 | noRule09 | noRule11 | noRule19 | noRule02 |
      noRule0a | noRule12 | noRule1a | noRule03 | noRule0b | noRule13 | noRule1b | neg32X | negX | endWidthD4 |
      endWidthDC | endWidthD7 | endWidthDF | jaX | exitX | callX | ja32 | ja32X | call32 | call32X | exit32 |
      exit32X | callSrc1 | callSrc2 | callSrc4 | callSrc8 =>
    exact raise_shaped _ _ _ (by decide)

/-- If `exec` answers `t`, then `t` is one of the shapes. -/
theorem exec_shape {i : Instr} {s t : State} (h : exec i s = .next t) : Shape s t := by
  obtain ⟨u, hu, hs⟩ := exec_shaped i s
  rw [hu] at h
  cases h
  exact hs

/-! ### start -/

/-- The check of R274 is the legal layout. -/
theorem layoutOk_iff (rs : List Region) : layoutOk rs = true ↔ LegalLayout rs := by
  have : pairwiseDisjoint rs = true ↔ rs.Pairwise fun r q => r.len = 0 ∨ q.len = 0 ∨ r.base + r.len ≤ q.base ∨ q.base + q.len ≤ r.base := by
    induction rs with
    | nil => simp [pairwiseDisjoint]
    | cons r rs ih => simp [pairwiseDisjoint, ih, Region.disjoint, List.pairwise_cons, or_assoc]
  have hf : ∀ r : Region, r.fits = true ↔ r.base + r.len ≤ 2 ^ 64 := fun r => decide_eq_true_iff
  simp only [layoutOk, LegalLayout, Bool.and_eq_true, this, List.all_eq_true, hf]

/-- A byte of a region starts as the host fixed it last (R270). -/
theorem fillMemory_find (rs : List Region) (cs : List Host.Cell) (m : Memory) (a : Nat) (d : Byte)
    (h : rs.any (·.covers a 1) = true) :
    ((fillMemory rs cs m).find a).getD d = lastWrite cs a ((m.find a).getD d) := by
  induction cs generalizing m with
  | nil => rfl
  | cons c cs ih =>
    unfold fillMemory
    rw [ih]
    simp only [lastWrite, List.foldl_cons]
    congr 1
    by_cases hc : c.1 = a
    · rw [if_pos hc, if_pos (by rw [hc]; exact h), hc]; simp
    · rw [if_neg hc]
      split
      · rw [Memory.find_write_ne _ _ _ _ (fun e => hc e.symm)]
      · rfl

/-- The start contents are in canonical form. -/
theorem fillMemory_wf (rs : List Region) (cs : List Host.Cell) (m : Memory) (h : m.wf = true) :
    (fillMemory rs cs m).wf = true := by
  induction cs generalizing m with
  | nil => exact h
  | cons c cs ih =>
    unfold fillMemory
    split
    · exact ih _ (Memory.wf_write _ _ _ h)
    · exact ih _ h

/-- The start contents lie inside the regions. -/
theorem fillMemory_mem (rs : List Region) (cs : List Host.Cell) (m : Memory) (c : Host.Cell)
    (h : c ∈ fillMemory rs cs m) : rs.any (·.covers c.1 1) = true ∨ c ∈ m := by
  induction cs generalizing m with
  | nil => exact .inr h
  | cons d cs ih =>
    unfold fillMemory at h
    rcases ih _ h with h | h
    · exact .inl h
    · split at h
      · next hd =>
        rcases Memory.mem_write _ _ _ _ h with e | h
        · exact .inl (by rw [e]; exact hd)
        · exact .inr h
      · exact .inr h

/-! ### step -/

theorem State.budgetSpent_iff (s : State) : s.budgetSpent = true ↔ ∃ f, s.params.fuel = some f ∧ f ≤ s.steps := by
  unfold State.budgetSpent
  split
  · next h => simp [h]
  · next f h => simp [h]

/-- What the start sequence answers (R41, R274). -/
theorem start_cases {e : StartEvent} {s t : State} (h : start e s = .next t) :
    s.status ≠ .running ∧ layoutOk (⟨e.stackBase, s.params.stackSize, true⟩ :: e.regions) = true ∧ t = started e s := by
  unfold start at h
  split at h
  · cases h
  · next hr =>
    split at h
    · next hl => cases h; exact ⟨hr, hl, rfl⟩
    · cases h

/-- Everything a step can do. -/
theorem step_cases {s t : State} (h : step s = .next t) :
    (∃ e, s.startIn = some e ∧ s.status ≠ .running ∧
      layoutOk (⟨e.stackBase, s.params.stackSize, true⟩ :: e.regions) = true ∧ t = started e { s with startIn := none }) ∨
    (s.startIn = none ∧ s.status = .running ∧
      ((∃ q r rest, s.helperReq = some q ∧ s.helperRsp = r :: rest ∧ HelperAllows s q r ∧
          t = finishCall r { s with helperRsp := rest }) ∨
        (s.helperReq = none ∧
          ((s.budgetSpent = true ∧ t = s.abort .stepBudgetExhausted (BitVec.ofNat 64 s.steps)) ∨
            (s.budgetSpent = false ∧
              ((∃ p, s.countStep.fetch = .outside p ∧ t = s.countStep.abort .pcOutOfRange (BitVec.ofInt 64 p)) ∨
                (∃ i, s.countStep.fetch = .instr i ∧ exec i s.countStep = .next t))))))) := by
  unfold step at h
  split at h
  · next e he =>
    obtain ⟨hr, hl, rfl⟩ := start_cases h
    exact .inl ⟨e, he, hr, hl, rfl⟩
  · next he =>
    split at h
    · next hr =>
      refine .inr ⟨he, hr, ?_⟩
      split at h
      · next q hq =>
        rcases resumeCall_cases q s with ⟨r, rest, hr, ha, e⟩ | ⟨_, e⟩ | ⟨_, _, _, _, e⟩
        · rw [e] at h
          cases h
          exact .inl ⟨q, r, rest, hq, hr, ha, rfl⟩
        · rw [e] at h; cases h
        · rw [e] at h; cases h
      · next hq =>
        refine .inr ⟨hq, ?_⟩
        unfold runStep at h
        cases hb : s.budgetSpent with
        | true =>
          rw [hb, if_pos rfl] at h
          cases h
          exact .inl ⟨rfl, rfl⟩
        | false =>
          rw [hb, if_neg (by decide)] at h
          refine .inr ⟨rfl, ?_⟩
          split at h
          · next i hi => exact .inr ⟨i, hi, h⟩
          · next p hp => cases h; exact .inl ⟨p, hp, rfl⟩
    · cases h

/-- A Ready core fetches and runs (R31). -/
theorem step_ready {s : State} (h : Ready s) : step s = match s.countStep.fetch with
    | .instr i => exec i s.countStep
    | .outside p => raisePcOutOfRange p s.countStep := by
  have hb : s.budgetSpent = false := by
    rw [← Bool.not_eq_true, State.budgetSpent_iff]
    rintro ⟨f, h1, h2⟩
    have := h.budget f h1
    omega
  simp only [step, h.noStart, h.running, h.noRequest, if_true, runStep, hb]
  rfl

end Sys2Proof.Machine
end

