-- ==== Sys2Proof/Laws/Claims.lean ====
section
/-! SUPPORT. From the shared operations to the terms of Sys2Proof/Safety.lean: what each operation's next state
says in them, so that a claim about an instruction is its value computation and one of these. -/

namespace Sys2Proof.Machine

variable {i : Instr} {s t : State}

theorem SameStatus.refl (s : State) : SameStatus s s := ⟨rfl, rfl, rfl, rfl, rfl, rfl, rfl⟩
theorem SameSetting.refl (s : State) : SameSetting s s := ⟨rfl, rfl, rfl, rfl, rfl, rfl⟩
theorem SamePorts.refl (s : State) : SamePorts s s := ⟨rfl, rfl, rfl⟩

/-- Writing one register and moving on. -/
theorem writesRegBy_of {n : Nat} {dst : Reg} {v : Word} {P : Nat → Prop}
    (h : exec i s = .next ((s.setReg dst v).advance n)) (hv : P v.toNat) : WritesRegBy n i dst P s :=
  ⟨_, h, by simpa using hv, rfl, fun r hr => s.setReg_reg_ne dst r v hr, fun _ => rfl, ⟨rfl, rfl, rfl, rfl, rfl, rfl, rfl⟩,
    ⟨rfl, rfl, rfl, rfl, rfl, rfl⟩, ⟨rfl, rfl, rfl⟩⟩

theorem writesReg_of {dst : Reg} {v : Word} {m : Nat} (h : exec i s = writeReg dst v s) (hv : v.toNat = m) :
    WritesReg i dst m s := writesRegBy_of h hv

theorem writesReg_of32 {dst : Reg} {v : BitVec 32} {m : Nat} (h : exec i s = writeReg32 dst v s) (hv : v.toNat = m) :
    WritesReg i dst m s := by
  refine writesRegBy_of h ?_
  show (v.setWidth 64).toNat = m
  have : v.toNat < 2 ^ 32 := v.isLt
  rw [BitVec.toNat_setWidth, Nat.mod_eq_of_lt (by omega), hv]

/-- Branching. -/
theorem jumps_of {c : Bool} {p : Prop} {off : BitVec 16} (h : exec i s = branch c off s) (hc : c = true ↔ p) :
    Jumps i p off s := by
  refine ⟨_, h.trans (branch_eq c off s), fun hp => ?_, fun hp => ?_, fun _ => rfl, fun _ => rfl,
    ⟨rfl, rfl, rfl, rfl, rfl, rfl, rfl⟩, ⟨rfl, rfl, rfl, rfl, rfl, rfl⟩, ⟨rfl, rfl, rfl⟩⟩
  · simp [hc.2 hp, jumpTarget]
  · have : c = false := by
      cases hcc : c with
      | false => rfl
      | true => exact absurd (hc.1 hcc) hp
    simp [this]

/-- An abort. -/
theorem abortedFrom_abort (f : FaultCode) (info : Word) (s : State) : AbortedFrom f info.toNat s (s.abort f info) :=
  ⟨rfl, rfl, rfl, rfl, rfl, rfl, fun _ => rfl, fun _ => rfl, rfl, rfl, ⟨rfl, rfl, rfl, rfl, rfl, rfl⟩, ⟨rfl, rfl, rfl⟩⟩

theorem aborts_of {f : FaultCode} {info : Word} {m : Nat} (h : exec i s = .next (s.abort f info))
    (hm : info.toNat = m) : Aborts i f m s := by
  subst hm
  exact ⟨_, h, abortedFrom_abort f info s⟩

/-- A termination. -/
theorem terminates_of {v : Word} {c : TermCause} (h : exec i s = terminate v c s) : Terminates i v c s :=
  ⟨_, h, rfl, rfl, rfl, rfl, rfl, rfl, rfl, fun _ => rfl, fun _ => rfl, rfl, ⟨rfl, rfl, rfl, rfl, rfl, rfl⟩, ⟨rfl, rfl, rfl⟩⟩

/-- A store that is admitted. -/
theorem stored_memWrite (s : State) (a n : Nat) (v : Word) : Stored n a v.toNat s ((s.memWrite a n v).advance 1) :=
  ⟨fun j hj => s.memWrite_byteAt_inside a n v j hj, fun x hx => s.memWrite_byteAt_outside a n v x hx, rfl, fun _ => rfl,
    ⟨rfl, rfl, rfl, rfl, rfl, rfl, rfl⟩, ⟨rfl, rfl, rfl, rfl, rfl, rfl⟩, ⟨rfl, rfl, rfl⟩⟩

/-! ### Numbers -/

theorem low32_toNat (s : State) (r : Reg) : (low32 s r).toNat = (s.reg r).toNat % 2 ^ 32 := by
  simp [low32, BitVec.toNat_setWidth]

theorem opnd32X_toNat (s : State) (r : Reg) : (opnd32X s r).toNat = (s.reg r).toNat % 2 ^ 32 := by
  simp [opnd32X, BitVec.toNat_setWidth]

theorem opnd32K_toNat (imm : BitVec 32) : (opnd32K imm).toNat = imm.toNat := rfl

theorem signExtend64_toNat (imm : BitVec 32) : (imm.signExtend 64).toNat = sextNat imm.toNat := by
  have h : imm.toNat < 2 ^ 32 := imm.isLt
  rw [BitVec.toNat_signExtend, BitVec.toNat_setWidth, sextNat, BitVec.msb_eq_decide]
  split <;> split <;> simp_all <;> omega

theorem opnd64K_toNat (imm : BitVec 32) : (opnd64K imm).toNat = sextNat imm.toNat := signExtend64_toNat imm

theorem toInt_eq_signedOf {n : Nat} (v : BitVec n) (h : 0 < n) : v.toInt = signedOf n v.toNat := by
  obtain ⟨m, rfl⟩ : ∃ m, n = m + 1 := ⟨n - 1, by omega⟩
  rw [BitVec.toInt_eq_toNat_cond, signedOf, Nat.add_sub_cancel]
  have : 2 * v.toNat < 2 ^ (m + 1) ↔ v.toNat < 2 ^ m := by rw [pow_succ]; omega
  simp only [this]
  split <;> simp

theorem helperIndex_eq (imm : BitVec 32) : helperIndex imm = signedOf 32 imm.toNat := by
  rw [helperIndex, BitVec.toInt_signExtend_of_le (by decide), toInt_eq_signedOf imm (by decide)]

theorem effAddr_toNat (s : State) (base : Reg) (off : BitVec 16) : (effAddr s base off).toNat = eaOf s base off := by
  have h : ((effAddr s base off).toNat : Int) = ((s.reg base).toNat + off.toInt) % 2 ^ 64 := by
    have h1 : (off.signExtend 64).toInt = off.toInt := BitVec.toInt_signExtend_of_le (by decide)
    have h2 := BitVec.toInt_eq_toNat_cond (off.signExtend 64)
    rw [effAddr, BitVec.toNat_add]
    rw [h1] at h2
    have h3 := (off.signExtend 64).isLt
    split at h2 <;> rw [h2] <;> push_cast <;> omega
  rw [eaOf, ← h, Int.toNat_natCast]

/-! ### Value computations -/

/-- `b & 31` is `b` modulo 32 (R104). -/
theorem shiftAmount32_eq (b : BitVec 32) : shiftAmount32 b = b.toNat % 32 := by
  simp only [shiftAmount32, BitVec.toNat_and]
  exact Nat.and_two_pow_sub_one_eq_mod b.toNat 5

/-- `b & 63` is `b` modulo 64 (R104). -/
theorem shiftAmount64_eq (b : Word) : shiftAmount64 b = b.toNat % 64 := by
  simp only [shiftAmount64, BitVec.toNat_and]
  exact Nat.and_two_pow_sub_one_eq_mod b.toNat 6

/-- An arithmetic shift is a division of the signed value, rounding down (R130, R131). -/
theorem sshiftRight_toNat {n : Nat} (hn : 0 < n) (a : BitVec n) (k : Nat) :
    (a.sshiftRight k).toNat = (signedOf n a.toNat / 2 ^ k % 2 ^ n).toNat := by
  have h := BitVec.toInt_sshiftRight (x := a) (n := k)
  rw [toInt_eq_signedOf a hn, Int.shiftRight_eq_div_pow] at h
  have h3 := (a.sshiftRight k).isLt
  have h2 := BitVec.toInt_eq_toNat_cond (a.sshiftRight k)
  have : ((a.sshiftRight k).toNat : Int) = signedOf n a.toNat / 2 ^ k % 2 ^ n := by
    push_cast at h
    rw [← h, h2]
    split
    · rw [Int.emod_eq_of_lt] <;> [omega; exact_mod_cast h3]
    · push_cast
      rw [Int.sub_emod_right, Int.emod_eq_of_lt] <;> [omega; exact_mod_cast h3]
  omega

/-- Keeping the byte order (R132). -/
theorem truncBytes_reordered (k : Nat) (hk : k ≤ 8) (v : Word) :
    Reordered false k v.toNat (truncBytes k v).toNat := by
  refine ⟨by simpa [truncBytes] using (ofBytesLE_toNat (toBytesLE k v) (by simpa using hk)).2, fun j hj => ?_⟩
  have hj' : j < (toBytesLE k v).length := by simpa
  rw [truncBytes, byteOf_ofBytesLE _ (by simpa using hk) j hj', toBytesLE_getElem]; rfl

/-- Reversing the byte order (R132). -/
theorem swapBytes_reordered (k : Nat) (hk : k ≤ 8) (v : Word) : Reordered true k v.toNat (swapBytes k v).toNat := by
  refine ⟨by simpa [swapBytes] using (ofBytesLE_toNat (toBytesLE k v).reverse (by simpa using hk)).2, fun j hj => ?_⟩
  have hj' : j < (toBytesLE k v).reverse.length := by simpa
  rw [swapBytes, byteOf_ofBytesLE _ (by simpa using hk) j hj', List.getElem_reverse, toBytesLE_getElem]; simp

/-- `to_le` (R132). -/
theorem toLittle_reordered (o : ByteOrder) (k : Nat) (hk : k ≤ 8) (v : Word) :
    Reordered (decide (o = .big)) k v.toNat (toLittle o k v).toNat := by
  cases o; exact truncBytes_reordered k hk v; exact swapBytes_reordered k hk v

/-- `to_be` (R132). -/
theorem toBig_reordered (o : ByteOrder) (k : Nat) (hk : k ≤ 8) (v : Word) :
    Reordered (decide (o = .little)) k v.toNat (toBig o k v).toNat := by
  cases o; exact swapBytes_reordered k hk v; exact truncBytes_reordered k hk v

/-- The sign-extended immediate as a number. -/
theorem immField_signExtend (w : Word) : ((immField w).signExtend 64).toNat = sextNat (bitsOf w 32 32) :=
    by rw [signExtend64_toNat, immField_toNat]

/-- JSET's condition as numbers (R162). -/
theorem condSet_iff {n : Nat} (a b : BitVec n) : condSet a b = true ↔ a.toNat &&& b.toNat ≠ 0 := by
  rw [← BitVec.toNat_and]; simp only [condSet, bne_iff_ne, ne_eq]
  exact not_congr ⟨fun h => by rw [h]; rfl, fun h => BitVec.eq_of_toNat_eq (by simpa using h)⟩

/-! ### From a meaning's shape to its rule -/

/-- An aborting row of the opcode map (R85): it keeps the word and aborts with it. -/
theorem abortsAs_op {op : Nat} {c : Word → Instr} {f : FaultCode} (hb : op < 256) (hn : op ≠ 0x18)
    (h : ∀ w, instrOf (tagOf (BitVec.ofNat 8 op)) w 0 = c w) (e : ∀ w s, exec (c w) s = raise f w s) :
      AbortsAs op c f := by
  refine ⟨fun w rest hw => ?_, fun w s => aborts_of (e w s) rfl⟩
  rw [decode_narrow rest (opcodeByte_ofNat hw hb) (ofNat_ne_wide hb hn), h]

/-- A class-4 operation follows its rule if its function does. -/
theorem aluRule32_of {opK opX : Nat} {cK : Reg → BitVec 32 → Instr} {cX : Reg → Reg → Instr} {f : Nat → Nat → Nat}
   (g : BitVec 32 → BitVec 32 → BitVec 32)
   (hk : DecodesAs opK (fun dst _ _ imm => cK dst imm)) (hx : DecodesAs opX (fun dst src _ _ => cX dst src))
   (eK : ∀ s dst imm, exec (cK dst imm) s = writeReg32 dst (g (low32 s dst) (opnd32K imm)) s)
   (eX : ∀ s dst src, exec (cX dst src) s = writeReg32 dst (g (low32 s dst) (opnd32X s src)) s)
   (hg : ∀ a b : BitVec 32, (g a b).toNat = f a.toNat b.toNat) : AluRule32 opK opX cK cX f :=
  ⟨hk, hx, fun s dst => ⟨fun imm => writesReg_of32 (eK s dst imm) (by rw [hg, low32_toNat, opnd32K_toNat]),
    fun src => writesReg_of32 (eX s dst src) (by rw [hg, low32_toNat, opnd32X_toNat])⟩⟩

/-- A class-7 operation follows its rule if its function does. -/
theorem aluRule64_of {opK opX : Nat} {cK : Reg → BitVec 32 → Instr} {cX : Reg → Reg → Instr} {f : Nat → Nat → Nat}
   (g : Word → Word → Word)
   (hk : DecodesAs opK (fun dst _ _ imm => cK dst imm)) (hx : DecodesAs opX (fun dst src _ _ => cX dst src))
   (eK : ∀ s dst imm, exec (cK dst imm) s = writeReg dst (g (s.reg dst) (opnd64K imm)) s)
   (eX : ∀ s dst src, exec (cX dst src) s = writeReg dst (g (s.reg dst) (opnd64X s src)) s)
   (hg : ∀ a b : Word, (g a b).toNat = f a.toNat b.toNat) : AluRule64 opK opX cK cX f :=
  ⟨hk, hx, fun s dst => ⟨fun imm => writesReg_of (eK s dst imm) (by rw [hg, opnd64K_toNat]),
    fun src => writesReg_of (eX s dst src) (by rw [hg]; rfl)⟩⟩

/-- DIV or MOD of class ALU. -/
theorem divRule32_of {opK opX : Nat} {cK : Reg → BitVec 32 → Instr} {cX : Reg → Reg → Instr} {f : Nat → Nat → Nat}
   (g : BitVec 32 → BitVec 32 → BitVec 32)
   (hk : DecodesAs opK (fun dst _ _ imm => cK dst imm)) (hx : DecodesAs opX (fun dst src _ _ => cX dst src))
   (eK : ∀ s dst imm, exec (cK dst imm) s = divide32 g dst (opnd32K imm) s)
   (eX : ∀ s dst src, exec (cX dst src) s = divide32 g dst (opnd32X s src) s)
   (hg : ∀ a b : BitVec 32, (g a b).toNat = f a.toNat b.toNat) : DivRule32 opK opX cK cX f := by
  have key : ∀ (i : Instr) s dst (b : BitVec 32),
    exec i s = divide32 g dst b s → Divides i dst f ((s.reg dst).toNat % 2 ^ 32) b.toNat s := by
    intro i s dst b h
    refine ⟨fun hb => ?_, fun hb => ?_⟩
    · have : b = 0 := BitVec.eq_of_toNat_eq hb
      exact terminates_of (by rw [h, divide32, if_pos this])
    · have : b ≠ 0 := by rintro rfl; exact hb rfl
      exact writesReg_of32 (v := g (low32 s dst) b) (by rw [h, divide32, if_neg this]) (by rw [hg, low32_toNat])
  exact ⟨hk, hx, fun s dst => ⟨fun imm => key _ s dst _ (eK s dst imm),
    fun src => by rw [← opnd32X_toNat]; exact key _ s dst _ (eX s dst src)⟩⟩

/-- DIV or MOD of class ALU64. -/
theorem divRule64_of {opK opX : Nat} {cK : Reg → BitVec 32 → Instr} {cX : Reg → Reg → Instr} {f : Nat → Nat → Nat}
   (g : Word → Word → Word)
   (hk : DecodesAs opK (fun dst _ _ imm => cK dst imm)) (hx : DecodesAs opX (fun dst src _ _ => cX dst src))
   (eK : ∀ s dst imm, exec (cK dst imm) s = divide64 g dst (opnd64K imm) s)
   (eX : ∀ s dst src, exec (cX dst src) s = divide64 g dst (opnd64X s src) s)
   (hg : ∀ a b : Word, (g a b).toNat = f a.toNat b.toNat) : DivRule64 opK opX cK cX f := by
  have key : ∀ (i : Instr) s dst (b : Word),
    exec i s = divide64 g dst b s → Divides i dst f ((s.reg dst).toNat) b.toNat s := by
    intro i s dst b h
    refine ⟨fun hb => ?_, fun hb => ?_⟩
    · have : b = 0 := BitVec.eq_of_toNat_eq hb
      exact terminates_of (by rw [h, divide64, if_pos this])
    · have : b ≠ 0 := by rintro rfl; exact hb rfl
      exact writesReg_of (v := g (s.reg dst) b) (by rw [h, divide64, if_neg this]) (by rw [hg])
  exact ⟨hk, hx, fun s dst => ⟨fun imm => by rw [← opnd64K_toNat]; exact key _ s dst _ (eK s dst imm),
    fun src => key _ s dst _ (eX s dst src)⟩⟩

/-- END of one opcode byte. -/
theorem endRule_of {op : Nat} {c16 c32 c64 : Reg → Instr} {bad : Word → Instr}
    {sw : ByteOrder → Bool} (f : ByteOrder → Nat → Word → Word)
   (hop : op < 256) (hn : op ≠ 0x18) (ht : ∀ w, instrOf (tagOf (BitVec.ofNat 8 op)) w 0 = endInstr c16 c32 c64 bad w)
   (hf : ∀ o k v, k ≤ 8 → Reordered (sw o) k v.toNat (f o k v).toNat)
   (e1 : ∀ s dst, exec (c16 dst) s = writeReg dst (f s.params.byteOrder 2 (s.reg dst)) s)
   (e2 : ∀ s dst, exec (c32 dst) s = writeReg dst (f s.params.byteOrder 4 (s.reg dst)) s)
   (e3 : ∀ s dst, exec (c64 dst) s = writeReg dst (f s.params.byteOrder 8 (s.reg dst)) s)
   (e4 : ∀ s w, exec (bad w) s = raise .invalidOperand ((immField w).signExtend 64) s) :
     EndRule op c16 c32 c64 bad sw := by
  refine ⟨fun w rest dst src off imm hF => ?_, fun s => ⟨fun dst => ⟨writesRegBy_of (e1 s dst) (hf _ _ _ (by decide)),
    writesRegBy_of (e2 s dst) (hf _ _ _ (by decide)), writesRegBy_of (e3 s dst)
      (hf _ _ _ (by decide))⟩, fun w => aborts_of (e4 s w) (immField_signExtend w)⟩⟩
  obtain ⟨rfl, rfl, rfl, rfl⟩ := hF.eqs
  rw [decode_narrow rest (opcodeByte_ofNat hF.op hop) (ofNat_ne_wide hop hn), ht]
  unfold endInstr
  have : ∀ n : Nat, n < 2 ^ 32 → ((immField w).toNat = n ↔ immField w = BitVec.ofNat 32 n) := by
    intro n hn
    constructor
    · intro h; exact BitVec.eq_of_toNat_eq (by simp; omega)
    · intro h; rw [h]; simp; omega
  simp only [this 16 (by decide), this 32 (by decide), this 64 (by decide)]
  rfl

/-- A conditional jump of class JMP. -/
theorem jumpRule64_of {opK opX : Nat} {cK : Reg → BitVec 32 → BitVec 16 → Instr}
    {cX : Reg → Reg → BitVec 16 → Instr} {cond : Nat → Nat → Prop}
   (g : Word → Word → Bool)
   (hk : DecodesAs opK (fun dst _ off imm => cK dst imm off))
     (hx : DecodesAs opX (fun dst src off _ => cX dst src off))
   (eK : ∀ s dst imm off, exec (cK dst imm off) s = branch (g (s.reg dst) (opnd64K imm)) off s)
   (eX : ∀ s dst src off, exec (cX dst src off) s = branch (g (s.reg dst) (opnd64X s src)) off s)
   (hg : ∀ a b : Word, g a b = true ↔ cond a.toNat b.toNat) : JumpRule64 opK opX cK cX cond :=
  ⟨hk, hx, fun s dst off => ⟨fun imm => jumps_of (eK s dst imm off) (by rw [hg, opnd64K_toNat]),
    fun src => jumps_of (eX s dst src off) (hg _ _)⟩⟩

/-- A conditional jump of class JMP32. -/
theorem jumpRule32_of {opK opX : Nat} {cK : Reg → BitVec 32 → BitVec 16 → Instr}
    {cX : Reg → Reg → BitVec 16 → Instr} {cond : Nat → Nat → Prop}
   (g : BitVec 32 → BitVec 32 → Bool)
   (hk : DecodesAs opK (fun dst _ off imm => cK dst imm off))
     (hx : DecodesAs opX (fun dst src off _ => cX dst src off))
   (eK : ∀ s dst imm off, exec (cK dst imm off) s = branch (g (low32 s dst) (opnd32K imm)) off s)
   (eX : ∀ s dst src off, exec (cX dst src off) s = branch (g (low32 s dst) (opnd32X s src)) off s)
   (hg : ∀ a b : BitVec 32, g a b = true ↔ cond a.toNat b.toNat) : JumpRule32 opK opX cK cX cond :=
  ⟨hk, hx, fun s dst off => ⟨fun imm => jumps_of (eK s dst imm off) (by rw [hg, low32_toNat, opnd32K_toNat]),
    fun src => jumps_of (eX s dst src off) (by rw [hg, low32_toNat, opnd32X_toNat])⟩⟩

/-- A load of `n` bytes. -/
theorem loadRule_of {op n : Nat} {c : Reg → Reg → BitVec 16 → Instr} (hn : n ≤ 8)
    (h : DecodesAs op (fun dst src off _ => c dst src off))
   (e : ∀ s dst src off, exec (c dst src off) s = load n dst src off s) : LoadRule op n c := by
  refine ⟨h, fun s dst src off => ?_⟩
  rw [← effAddr_toNat]
  have := load_cases n dst src off s
  refine ⟨fun h1 => ?_, fun h1 h2 => ?_, fun h1 h2 => ?_⟩ <;> simp [h1] at this
  · exact aborts_of ((e ..).trans this) rfl
  · simp [h2] at this; exact aborts_of ((e ..).trans this) rfl
  · simp [h2] at this; exact writesReg_of (v :=
    s.memRead (effAddr s src off).toNat n) ((e ..).trans this) (s.memRead_toNat _ _ hn)

/-- A store of `n` bytes. -/
theorem stores_of {n : Nat} {i : Instr} {dst : Reg} {off : BitVec 16} {v : Word} {s : State}
    {m : Nat} (hm : v.toNat = m)
   (e : exec i s = store n dst off v s) : Stores n i dst off m s := by
  unfold Stores
  rw [← effAddr_toNat]
  have := store_cases n dst off v s
  refine ⟨fun h1 => ?_, fun h1 h2 => ?_, fun h1 h2 => ?_⟩ <;> simp [h1] at this
  · exact aborts_of ((e ..).trans this) rfl
  · simp [h2] at this; exact aborts_of ((e ..).trans this) rfl
  · simp [h2] at this; exact ⟨_, e.trans this, hm ▸ stored_memWrite _ _ _ _⟩

end Sys2Proof.Machine
end

