-- ==== Sys2Proof/Laws/PerInstr.lean ====
section
/-! SUPPORT. The per-instruction family TableRow: a well-formed instruction encodes to a word of its own row of
spec/opcode_table.json. -/

namespace Sys2Proof.Laws.TableRow

/-- The mask and the match of the row of spec/opcode_table.json a constructor stands for. -/
def rowOf : Instr → Word × Word
  | .add32K _ _ => (0xff, 0x04)
  | .add32X _ _ => (0xff, 0x0c)
  | .sub32K _ _ => (0xff, 0x14)
  | .sub32X _ _ => (0xff, 0x1c)
  | .mul32K _ _ => (0xff, 0x24)
  | .mul32X _ _ => (0xff, 0x2c)
  | .div32K _ _ => (0xff, 0x34)
  | .div32X _ _ => (0xff, 0x3c)
  | .or32K _ _ => (0xff, 0x44)
  | .or32X _ _ => (0xff, 0x4c)
  | .and32K _ _ => (0xff, 0x54)
  | .and32X _ _ => (0xff, 0x5c)
  | .lsh32K _ _ => (0xff, 0x64)
  | .lsh32X _ _ => (0xff, 0x6c)
  | .rsh32K _ _ => (0xff, 0x74)
  | .rsh32X _ _ => (0xff, 0x7c)
  | .neg32 _ => (0xff, 0x84)
  | .mod32K _ _ => (0xff, 0x94)
  | .mod32X _ _ => (0xff, 0x9c)
  | .xor32K _ _ => (0xff, 0xa4)
  | .xor32X _ _ => (0xff, 0xac)
  | .mov32K _ _ => (0xff, 0xb4)
  | .mov32X _ _ => (0xff, 0xbc)
  | .arsh32K _ _ => (0xff, 0xc4)
  | .arsh32X _ _ => (0xff, 0xcc)
  | .addK _ _ => (0xff, 0x07)
  | .addX _ _ => (0xff, 0x0f)
  | .subK _ _ => (0xff, 0x17)
  | .subX _ _ => (0xff, 0x1f)
  | .mulK _ _ => (0xff, 0x27)
  | .mulX _ _ => (0xff, 0x2f)
  | .divK _ _ => (0xff, 0x37)
  | .divX _ _ => (0xff, 0x3f)
  | .orK _ _ => (0xff, 0x47)
  | .orX _ _ => (0xff, 0x4f)
  | .andK _ _ => (0xff, 0x57)
  | .andX _ _ => (0xff, 0x5f)
  | .lshK _ _ => (0xff, 0x67)
  | .lshX _ _ => (0xff, 0x6f)
  | .rshK _ _ => (0xff, 0x77)
  | .rshX _ _ => (0xff, 0x7f)
  | .neg _ => (0xff, 0x87)
  | .modK _ _ => (0xff, 0x97)
  | .modX _ _ => (0xff, 0x9f)
  | .xorK _ _ => (0xff, 0xa7)
  | .xorX _ _ => (0xff, 0xaf)
  | .movK _ _ => (0xff, 0xb7)
  | .movX _ _ => (0xff, 0xbf)
  | .arshK _ _ => (0xff, 0xc7)
  | .arshX _ _ => (0xff, 0xcf)
  | .le16 _ => (0xffffffff000000ff, 0x10000000d4)
  | .le32 _ => (0xffffffff000000ff, 0x20000000d4)
  | .le64 _ => (0xffffffff000000ff, 0x40000000d4)
  | .be16 _ => (0xffffffff000000ff, 0x10000000dc)
  | .be32 _ => (0xffffffff000000ff, 0x20000000dc)
  | .be64 _ => (0xffffffff000000ff, 0x40000000dc)
  | .le16Alu64 _ => (0xffffffff000000ff, 0x10000000d7)
  | .le32Alu64 _ => (0xffffffff000000ff, 0x20000000d7)
  | .le64Alu64 _ => (0xffffffff000000ff, 0x40000000d7)
  | .be16Alu64 _ => (0xffffffff000000ff, 0x10000000df)
  | .be32Alu64 _ => (0xffffffff000000ff, 0x20000000df)
  | .be64Alu64 _ => (0xffffffff000000ff, 0x40000000df)
  | .ja _ => (0xff, 0x05)
  | .jeqK _ _ _ => (0xff, 0x15)
  | .jeqX _ _ _ => (0xff, 0x1d)
  | .jgtK _ _ _ => (0xff, 0x25)
  | .jgtX _ _ _ => (0xff, 0x2d)
  | .jgeK _ _ _ => (0xff, 0x35)
  | .jgeX _ _ _ => (0xff, 0x3d)
  | .jsetK _ _ _ => (0xff, 0x45)
  | .jsetX _ _ _ => (0xff, 0x4d)
  | .jneK _ _ _ => (0xff, 0x55)
  | .jneX _ _ _ => (0xff, 0x5d)
  | .jsgtK _ _ _ => (0xff, 0x65)
  | .jsgtX _ _ _ => (0xff, 0x6d)
  | .jsgeK _ _ _ => (0xff, 0x75)
  | .jsgeX _ _ _ => (0xff, 0x7d)
  | .jltK _ _ _ => (0xff, 0xa5)
  | .jltX _ _ _ => (0xff, 0xad)
  | .jleK _ _ _ => (0xff, 0xb5)
  | .jleX _ _ _ => (0xff, 0xbd)
  | .jsltK _ _ _ => (0xff, 0xc5)
  | .jsltX _ _ _ => (0xff, 0xcd)
  | .jsleK _ _ _ => (0xff, 0xd5)
  | .jsleX _ _ _ => (0xff, 0xdd)
  | .jeq32K _ _ _ => (0xff, 0x16)
  | .jeq32X _ _ _ => (0xff, 0x1e)
  | .jgt32K _ _ _ => (0xff, 0x26)
  | .jgt32X _ _ _ => (0xff, 0x2e)
  | .jge32K _ _ _ => (0xff, 0x36)
  | .jge32X _ _ _ => (0xff, 0x3e)
  | .jset32K _ _ _ => (0xff, 0x46)
  | .jset32X _ _ _ => (0xff, 0x4e)
  | .jne32K _ _ _ => (0xff, 0x56)
  | .jne32X _ _ _ => (0xff, 0x5e)
  | .jsgt32K _ _ _ => (0xff, 0x66)
  | .jsgt32X _ _ _ => (0xff, 0x6e)
  | .jsge32K _ _ _ => (0xff, 0x76)
  | .jsge32X _ _ _ => (0xff, 0x7e)
  | .jlt32K _ _ _ => (0xff, 0xa6)
  | .jlt32X _ _ _ => (0xff, 0xae)
  | .jle32K _ _ _ => (0xff, 0xb6)
  | .jle32X _ _ _ => (0xff, 0xbe)
  | .jslt32K _ _ _ => (0xff, 0xc6)
  | .jslt32X _ _ _ => (0xff, 0xce)
  | .jsle32K _ _ _ => (0xff, 0xd6)
  | .jsle32X _ _ _ => (0xff, 0xde)
  | .call _ => (0xf0ff, 0x85)
  | .exit => (0xff, 0x95)
  | .lddw _ _ => (0xff, 0x18)
  | .ldxw _ _ _ => (0xff, 0x61)
  | .ldxh _ _ _ => (0xff, 0x69)
  | .ldxb _ _ _ => (0xff, 0x71)
  | .ldxdw _ _ _ => (0xff, 0x79)
  | .stw _ _ _ => (0xff, 0x62)
  | .sth _ _ _ => (0xff, 0x6a)
  | .stb _ _ _ => (0xff, 0x72)
  | .stdw _ _ _ => (0xff, 0x7a)
  | .stxw _ _ _ => (0xff, 0x63)
  | .stxh _ _ _ => (0xff, 0x6b)
  | .stxb _ _ _ => (0xff, 0x73)
  | .stxdw _ _ _ => (0xff, 0x7b)
  | .faultMode7 _ => (0xe4, 0xe0)
  | .faultOp14Or15 _ => (0xe4, 0xe4)
  | .modeAbs _ => (0xe4, 0x20)
  | .modeInd _ => (0xe4, 0x40)
  | .modeLen _ => (0xe4, 0x80)
  | .modeMsh _ => (0xe4, 0xa0)
  | .modeXadd _ => (0xe4, 0xc0)
  | .noRule00 _ => (0xff, 0x00)
  | .noRule08 _ => (0xff, 0x08)
  | .noRule10 _ => (0xff, 0x10)
  | .noRule60 _ => (0xff, 0x60)
  | .noRule68 _ => (0xff, 0x68)
  | .noRule70 _ => (0xff, 0x70)
  | .noRule78 _ => (0xff, 0x78)
  | .noRule01 _ => (0xff, 0x01)
  | .noRule09 _ => (0xff, 0x09)
  | .noRule11 _ => (0xff, 0x11)
  | .noRule19 _ => (0xff, 0x19)
  | .noRule02 _ => (0xff, 0x02)
  | .noRule0a _ => (0xff, 0x0a)
  | .noRule12 _ => (0xff, 0x12)
  | .noRule1a _ => (0xff, 0x1a)
  | .noRule03 _ => (0xff, 0x03)
  | .noRule0b _ => (0xff, 0x0b)
  | .noRule13 _ => (0xff, 0x13)
  | .noRule1b _ => (0xff, 0x1b)
  | .neg32X _ => (0xff, 0x8c)
  | .negX _ => (0xff, 0x8f)
  | .endWidthD4 _ => (0xff, 0xd4)
  | .endWidthDC _ => (0xff, 0xdc)
  | .endWidthD7 _ => (0xff, 0xd7)
  | .endWidthDF _ => (0xff, 0xdf)
  | .jaX _ => (0xff, 0x0d)
  | .exitX _ => (0xff, 0x9d)
  | .callX _ => (0xff, 0x8d)
  | .ja32 _ => (0xff, 0x06)
  | .ja32X _ => (0xff, 0x0e)
  | .call32 _ => (0xff, 0x86)
  | .call32X _ => (0xff, 0x8e)
  | .exit32 _ => (0xff, 0x96)
  | .exit32X _ => (0xff, 0x9e)
  | .callSrc1 _ => (0x10ff, 0x1085)
  | .callSrc2 _ => (0x20ff, 0x2085)
  | .callSrc4 _ => (0x40ff, 0x4085)
  | .callSrc8 _ => (0x80ff, 0x8085)

/-- The instruction, if well-formed, encodes to a word of its row. -/
def Statement (i : Instr) : Prop :=
  i.wellFormed = true → ∃ w rest, encode i = w :: rest ∧ inRow w (rowOf i).1 (rowOf i).2 = true

/-- The low bits of a word. -/
theorem and_low8 (w : Word) : w &&& 0xff = BitVec.ofNat 64 (w.toNat % 2 ^ 8) := by
  apply BitVec.eq_of_toNat_eq
  have h : w.toNat &&& (2 ^ 8 - 1) = w.toNat % 2 ^ 8 := Nat.and_two_pow_sub_one_eq_mod _ _
  rw [BitVec.toNat_and, BitVec.toNat_ofNat, Nat.mod_eq_of_lt (by omega)]
  exact h

theorem and_low16 (w : Word) : w &&& 0xffff = BitVec.ofNat 64 (w.toNat % 2 ^ 16) := by
  apply BitVec.eq_of_toNat_eq
  have h : w.toNat &&& (2 ^ 16 - 1) = w.toNat % 2 ^ 16 := Nat.and_two_pow_sub_one_eq_mod _ _
  rw [BitVec.toNat_and, BitVec.toNat_ofNat, Nat.mod_eq_of_lt (by omega)]
  exact h

/-- A row that fixes the opcode byte alone. -/
theorem byteRow (op : BitVec 8) (dst src : Reg) (off : BitVec 16) (imm : BitVec 32) (p : Word)
    (hp : p = op.setWidth 64) : inRow (pack op dst src off imm) 0xff p = true := by
  have h1 : op.toNat < 2 ^ 8 := op.isLt
  simp only [inRow, beq_iff_eq, and_low8, pack_toNat, hp]
  apply BitVec.eq_of_toNat_eq
  simp only [BitVec.toNat_ofNat, BitVec.toNat_setWidth]
  omega

/-- A word of a row is a word of every row that fixes fewer of its bits. -/
theorem inRow_weaken (w m p m' p' : Word) (hm : m &&& m' = m') (hp : p &&& m' = p') (h : inRow w m p = true) :
    inRow w m' p' = true := by
  simp only [inRow, beq_iff_eq] at h ⊢
  rw [← hp, ← h, BitVec.and_assoc, hm]

/-- The row of CALL fixes the opcode byte and `src`. -/
theorem callRow (imm : BitVec 32) : inRow (pack 0x85 0 0 0 imm) 0xf0ff 0x85 = true := by
  have h : pack 0x85 0 0 0 imm &&& 0xffff = 0x85 := by
    have e : imm.toNat * 2 ^ 32 + (0 : BitVec 16).toNat * 2 ^ 16 + (0 : Reg).val * 2 ^ 12 + (0 : Reg).val * 2 ^ 8 +
        (0x85 : BitVec 8).toNat = imm.toNat * 2 ^ 32 + 0x85 := by simp
    rw [and_low16, pack_toNat, e, show (imm.toNat * 2 ^ 32 + 0x85) % 2 ^ 16 = 0x85 by omega]
    rfl
  have hm : (0xf0ff : Word) = 0xffff &&& 0xf0ff := by decide
  rw [inRow, hm, ← BitVec.and_assoc, h]
  decide

theorem add32K (dst : Reg) (imm : BitVec 32) : Statement (.add32K dst imm) := fun _ => ⟨_, _, rfl, byteRow _ _ _ _ _ _ rfl⟩
theorem add32X (dst : Reg) (src : Reg) : Statement (.add32X dst src) := fun _ => ⟨_, _, rfl, byteRow _ _ _ _ _ _ rfl⟩
theorem sub32K (dst : Reg) (imm : BitVec 32) : Statement (.sub32K dst imm) := fun _ => ⟨_, _, rfl, byteRow _ _ _ _ _ _ rfl⟩
theorem sub32X (dst : Reg) (src : Reg) : Statement (.sub32X dst src) := fun _ => ⟨_, _, rfl, byteRow _ _ _ _ _ _ rfl⟩
theorem mul32K (dst : Reg) (imm : BitVec 32) : Statement (.mul32K dst imm) := fun _ => ⟨_, _, rfl, byteRow _ _ _ _ _ _ rfl⟩
theorem mul32X (dst : Reg) (src : Reg) : Statement (.mul32X dst src) := fun _ => ⟨_, _, rfl, byteRow _ _ _ _ _ _ rfl⟩
theorem div32K (dst : Reg) (imm : BitVec 32) : Statement (.div32K dst imm) := fun _ => ⟨_, _, rfl, byteRow _ _ _ _ _ _ rfl⟩
theorem div32X (dst : Reg) (src : Reg) : Statement (.div32X dst src) := fun _ => ⟨_, _, rfl, byteRow _ _ _ _ _ _ rfl⟩
theorem or32K (dst : Reg) (imm : BitVec 32) : Statement (.or32K dst imm) := fun _ => ⟨_, _, rfl, byteRow _ _ _ _ _ _ rfl⟩
theorem or32X (dst : Reg) (src : Reg) : Statement (.or32X dst src) := fun _ => ⟨_, _, rfl, byteRow _ _ _ _ _ _ rfl⟩
theorem and32K (dst : Reg) (imm : BitVec 32) : Statement (.and32K dst imm) := fun _ => ⟨_, _, rfl, byteRow _ _ _ _ _ _ rfl⟩
theorem and32X (dst : Reg) (src : Reg) : Statement (.and32X dst src) := fun _ => ⟨_, _, rfl, byteRow _ _ _ _ _ _ rfl⟩
theorem lsh32K (dst : Reg) (imm : BitVec 32) : Statement (.lsh32K dst imm) := fun _ => ⟨_, _, rfl, byteRow _ _ _ _ _ _ rfl⟩
theorem lsh32X (dst : Reg) (src : Reg) : Statement (.lsh32X dst src) := fun _ => ⟨_, _, rfl, byteRow _ _ _ _ _ _ rfl⟩
theorem rsh32K (dst : Reg) (imm : BitVec 32) : Statement (.rsh32K dst imm) := fun _ => ⟨_, _, rfl, byteRow _ _ _ _ _ _ rfl⟩
theorem rsh32X (dst : Reg) (src : Reg) : Statement (.rsh32X dst src) := fun _ => ⟨_, _, rfl, byteRow _ _ _ _ _ _ rfl⟩
theorem neg32 (dst : Reg) : Statement (.neg32 dst) := fun _ => ⟨_, _, rfl, byteRow _ _ _ _ _ _ rfl⟩
theorem mod32K (dst : Reg) (imm : BitVec 32) : Statement (.mod32K dst imm) := fun _ => ⟨_, _, rfl, byteRow _ _ _ _ _ _ rfl⟩
theorem mod32X (dst : Reg) (src : Reg) : Statement (.mod32X dst src) := fun _ => ⟨_, _, rfl, byteRow _ _ _ _ _ _ rfl⟩
theorem xor32K (dst : Reg) (imm : BitVec 32) : Statement (.xor32K dst imm) := fun _ => ⟨_, _, rfl, byteRow _ _ _ _ _ _ rfl⟩
theorem xor32X (dst : Reg) (src : Reg) : Statement (.xor32X dst src) := fun _ => ⟨_, _, rfl, byteRow _ _ _ _ _ _ rfl⟩
theorem mov32K (dst : Reg) (imm : BitVec 32) : Statement (.mov32K dst imm) := fun _ => ⟨_, _, rfl, byteRow _ _ _ _ _ _ rfl⟩
theorem mov32X (dst : Reg) (src : Reg) : Statement (.mov32X dst src) := fun _ => ⟨_, _, rfl, byteRow _ _ _ _ _ _ rfl⟩
theorem arsh32K (dst : Reg) (imm : BitVec 32) : Statement (.arsh32K dst imm) := fun _ => ⟨_, _, rfl, byteRow _ _ _ _ _ _ rfl⟩
theorem arsh32X (dst : Reg) (src : Reg) : Statement (.arsh32X dst src) := fun _ => ⟨_, _, rfl, byteRow _ _ _ _ _ _ rfl⟩
theorem addK (dst : Reg) (imm : BitVec 32) : Statement (.addK dst imm) := fun _ => ⟨_, _, rfl, byteRow _ _ _ _ _ _ rfl⟩
theorem addX (dst : Reg) (src : Reg) : Statement (.addX dst src) := fun _ => ⟨_, _, rfl, byteRow _ _ _ _ _ _ rfl⟩
theorem subK (dst : Reg) (imm : BitVec 32) : Statement (.subK dst imm) := fun _ => ⟨_, _, rfl, byteRow _ _ _ _ _ _ rfl⟩
theorem subX (dst : Reg) (src : Reg) : Statement (.subX dst src) := fun _ => ⟨_, _, rfl, byteRow _ _ _ _ _ _ rfl⟩
theorem mulK (dst : Reg) (imm : BitVec 32) : Statement (.mulK dst imm) := fun _ => ⟨_, _, rfl, byteRow _ _ _ _ _ _ rfl⟩
theorem mulX (dst : Reg) (src : Reg) : Statement (.mulX dst src) := fun _ => ⟨_, _, rfl, byteRow _ _ _ _ _ _ rfl⟩
theorem divK (dst : Reg) (imm : BitVec 32) : Statement (.divK dst imm) := fun _ => ⟨_, _, rfl, byteRow _ _ _ _ _ _ rfl⟩
theorem divX (dst : Reg) (src : Reg) : Statement (.divX dst src) := fun _ => ⟨_, _, rfl, byteRow _ _ _ _ _ _ rfl⟩
theorem orK (dst : Reg) (imm : BitVec 32) : Statement (.orK dst imm) := fun _ => ⟨_, _, rfl, byteRow _ _ _ _ _ _ rfl⟩
theorem orX (dst : Reg) (src : Reg) : Statement (.orX dst src) := fun _ => ⟨_, _, rfl, byteRow _ _ _ _ _ _ rfl⟩
theorem andK (dst : Reg) (imm : BitVec 32) : Statement (.andK dst imm) := fun _ => ⟨_, _, rfl, byteRow _ _ _ _ _ _ rfl⟩
theorem andX (dst : Reg) (src : Reg) : Statement (.andX dst src) := fun _ => ⟨_, _, rfl, byteRow _ _ _ _ _ _ rfl⟩
theorem lshK (dst : Reg) (imm : BitVec 32) : Statement (.lshK dst imm) := fun _ => ⟨_, _, rfl, byteRow _ _ _ _ _ _ rfl⟩
theorem lshX (dst : Reg) (src : Reg) : Statement (.lshX dst src) := fun _ => ⟨_, _, rfl, byteRow _ _ _ _ _ _ rfl⟩
theorem rshK (dst : Reg) (imm : BitVec 32) : Statement (.rshK dst imm) := fun _ => ⟨_, _, rfl, byteRow _ _ _ _ _ _ rfl⟩
theorem rshX (dst : Reg) (src : Reg) : Statement (.rshX dst src) := fun _ => ⟨_, _, rfl, byteRow _ _ _ _ _ _ rfl⟩
theorem neg (dst : Reg) : Statement (.neg dst) := fun _ => ⟨_, _, rfl, byteRow _ _ _ _ _ _ rfl⟩
theorem modK (dst : Reg) (imm : BitVec 32) : Statement (.modK dst imm) := fun _ => ⟨_, _, rfl, byteRow _ _ _ _ _ _ rfl⟩
theorem modX (dst : Reg) (src : Reg) : Statement (.modX dst src) := fun _ => ⟨_, _, rfl, byteRow _ _ _ _ _ _ rfl⟩
theorem xorK (dst : Reg) (imm : BitVec 32) : Statement (.xorK dst imm) := fun _ => ⟨_, _, rfl, byteRow _ _ _ _ _ _ rfl⟩
theorem xorX (dst : Reg) (src : Reg) : Statement (.xorX dst src) := fun _ => ⟨_, _, rfl, byteRow _ _ _ _ _ _ rfl⟩
theorem movK (dst : Reg) (imm : BitVec 32) : Statement (.movK dst imm) := fun _ => ⟨_, _, rfl, byteRow _ _ _ _ _ _ rfl⟩
theorem movX (dst : Reg) (src : Reg) : Statement (.movX dst src) := fun _ => ⟨_, _, rfl, byteRow _ _ _ _ _ _ rfl⟩
theorem arshK (dst : Reg) (imm : BitVec 32) : Statement (.arshK dst imm) := fun _ => ⟨_, _, rfl, byteRow _ _ _ _ _ _ rfl⟩
theorem arshX (dst : Reg) (src : Reg) : Statement (.arshX dst src) := fun _ => ⟨_, _, rfl, byteRow _ _ _ _ _ _ rfl⟩
theorem le16 (dst : Reg) : Statement (.le16 dst) := fun _ => ⟨_, _, rfl, by revert dst; decide⟩
theorem le32 (dst : Reg) : Statement (.le32 dst) := fun _ => ⟨_, _, rfl, by revert dst; decide⟩
theorem le64 (dst : Reg) : Statement (.le64 dst) := fun _ => ⟨_, _, rfl, by revert dst; decide⟩
theorem be16 (dst : Reg) : Statement (.be16 dst) := fun _ => ⟨_, _, rfl, by revert dst; decide⟩
theorem be32 (dst : Reg) : Statement (.be32 dst) := fun _ => ⟨_, _, rfl, by revert dst; decide⟩
theorem be64 (dst : Reg) : Statement (.be64 dst) := fun _ => ⟨_, _, rfl, by revert dst; decide⟩
theorem le16Alu64 (dst : Reg) : Statement (.le16Alu64 dst) := fun _ => ⟨_, _, rfl, by revert dst; decide⟩
theorem le32Alu64 (dst : Reg) : Statement (.le32Alu64 dst) := fun _ => ⟨_, _, rfl, by revert dst; decide⟩
theorem le64Alu64 (dst : Reg) : Statement (.le64Alu64 dst) := fun _ => ⟨_, _, rfl, by revert dst; decide⟩
theorem be16Alu64 (dst : Reg) : Statement (.be16Alu64 dst) := fun _ => ⟨_, _, rfl, by revert dst; decide⟩
theorem be32Alu64 (dst : Reg) : Statement (.be32Alu64 dst) := fun _ => ⟨_, _, rfl, by revert dst; decide⟩
theorem be64Alu64 (dst : Reg) : Statement (.be64Alu64 dst) := fun _ => ⟨_, _, rfl, by revert dst; decide⟩
theorem ja (off : BitVec 16) : Statement (.ja off) := fun _ => ⟨_, _, rfl, byteRow _ _ _ _ _ _ rfl⟩
theorem jeqK (dst : Reg) (imm : BitVec 32) (off : BitVec 16) : Statement (.jeqK dst imm off) := fun _ => ⟨_, _, rfl, byteRow _ _ _ _ _ _ rfl⟩
theorem jeqX (dst : Reg) (src : Reg) (off : BitVec 16) : Statement (.jeqX dst src off) := fun _ => ⟨_, _, rfl, byteRow _ _ _ _ _ _ rfl⟩
theorem jgtK (dst : Reg) (imm : BitVec 32) (off : BitVec 16) : Statement (.jgtK dst imm off) := fun _ => ⟨_, _, rfl, byteRow _ _ _ _ _ _ rfl⟩
theorem jgtX (dst : Reg) (src : Reg) (off : BitVec 16) : Statement (.jgtX dst src off) := fun _ => ⟨_, _, rfl, byteRow _ _ _ _ _ _ rfl⟩
theorem jgeK (dst : Reg) (imm : BitVec 32) (off : BitVec 16) : Statement (.jgeK dst imm off) := fun _ => ⟨_, _, rfl, byteRow _ _ _ _ _ _ rfl⟩
theorem jgeX (dst : Reg) (src : Reg) (off : BitVec 16) : Statement (.jgeX dst src off) := fun _ => ⟨_, _, rfl, byteRow _ _ _ _ _ _ rfl⟩
theorem jsetK (dst : Reg) (imm : BitVec 32) (off : BitVec 16) : Statement (.jsetK dst imm off) := fun _ => ⟨_, _, rfl, byteRow _ _ _ _ _ _ rfl⟩
theorem jsetX (dst : Reg) (src : Reg) (off : BitVec 16) : Statement (.jsetX dst src off) := fun _ => ⟨_, _, rfl, byteRow _ _ _ _ _ _ rfl⟩
theorem jneK (dst : Reg) (imm : BitVec 32) (off : BitVec 16) : Statement (.jneK dst imm off) := fun _ => ⟨_, _, rfl, byteRow _ _ _ _ _ _ rfl⟩
theorem jneX (dst : Reg) (src : Reg) (off : BitVec 16) : Statement (.jneX dst src off) := fun _ => ⟨_, _, rfl, byteRow _ _ _ _ _ _ rfl⟩
theorem jsgtK (dst : Reg) (imm : BitVec 32) (off : BitVec 16) : Statement (.jsgtK dst imm off) := fun _ => ⟨_, _, rfl, byteRow _ _ _ _ _ _ rfl⟩
theorem jsgtX (dst : Reg) (src : Reg) (off : BitVec 16) : Statement (.jsgtX dst src off) := fun _ => ⟨_, _, rfl, byteRow _ _ _ _ _ _ rfl⟩
theorem jsgeK (dst : Reg) (imm : BitVec 32) (off : BitVec 16) : Statement (.jsgeK dst imm off) := fun _ => ⟨_, _, rfl, byteRow _ _ _ _ _ _ rfl⟩
theorem jsgeX (dst : Reg) (src : Reg) (off : BitVec 16) : Statement (.jsgeX dst src off) := fun _ => ⟨_, _, rfl, byteRow _ _ _ _ _ _ rfl⟩
theorem jltK (dst : Reg) (imm : BitVec 32) (off : BitVec 16) : Statement (.jltK dst imm off) := fun _ => ⟨_, _, rfl, byteRow _ _ _ _ _ _ rfl⟩
theorem jltX (dst : Reg) (src : Reg) (off : BitVec 16) : Statement (.jltX dst src off) := fun _ => ⟨_, _, rfl, byteRow _ _ _ _ _ _ rfl⟩
theorem jleK (dst : Reg) (imm : BitVec 32) (off : BitVec 16) : Statement (.jleK dst imm off) := fun _ => ⟨_, _, rfl, byteRow _ _ _ _ _ _ rfl⟩
theorem jleX (dst : Reg) (src : Reg) (off : BitVec 16) : Statement (.jleX dst src off) := fun _ => ⟨_, _, rfl, byteRow _ _ _ _ _ _ rfl⟩
theorem jsltK (dst : Reg) (imm : BitVec 32) (off : BitVec 16) : Statement (.jsltK dst imm off) := fun _ => ⟨_, _, rfl, byteRow _ _ _ _ _ _ rfl⟩
theorem jsltX (dst : Reg) (src : Reg) (off : BitVec 16) : Statement (.jsltX dst src off) := fun _ => ⟨_, _, rfl, byteRow _ _ _ _ _ _ rfl⟩
theorem jsleK (dst : Reg) (imm : BitVec 32) (off : BitVec 16) : Statement (.jsleK dst imm off) := fun _ => ⟨_, _, rfl, byteRow _ _ _ _ _ _ rfl⟩
theorem jsleX (dst : Reg) (src : Reg) (off : BitVec 16) : Statement (.jsleX dst src off) := fun _ => ⟨_, _, rfl, byteRow _ _ _ _ _ _ rfl⟩
theorem jeq32K (dst : Reg) (imm : BitVec 32) (off : BitVec 16) : Statement (.jeq32K dst imm off) := fun _ => ⟨_, _, rfl, byteRow _ _ _ _ _ _ rfl⟩
theorem jeq32X (dst : Reg) (src : Reg) (off : BitVec 16) : Statement (.jeq32X dst src off) := fun _ => ⟨_, _, rfl, byteRow _ _ _ _ _ _ rfl⟩
theorem jgt32K (dst : Reg) (imm : BitVec 32) (off : BitVec 16) : Statement (.jgt32K dst imm off) := fun _ => ⟨_, _, rfl, byteRow _ _ _ _ _ _ rfl⟩
theorem jgt32X (dst : Reg) (src : Reg) (off : BitVec 16) : Statement (.jgt32X dst src off) := fun _ => ⟨_, _, rfl, byteRow _ _ _ _ _ _ rfl⟩
theorem jge32K (dst : Reg) (imm : BitVec 32) (off : BitVec 16) : Statement (.jge32K dst imm off) := fun _ => ⟨_, _, rfl, byteRow _ _ _ _ _ _ rfl⟩
theorem jge32X (dst : Reg) (src : Reg) (off : BitVec 16) : Statement (.jge32X dst src off) := fun _ => ⟨_, _, rfl, byteRow _ _ _ _ _ _ rfl⟩
theorem jset32K (dst : Reg) (imm : BitVec 32) (off : BitVec 16) : Statement (.jset32K dst imm off) := fun _ => ⟨_, _, rfl, byteRow _ _ _ _ _ _ rfl⟩
theorem jset32X (dst : Reg) (src : Reg) (off : BitVec 16) : Statement (.jset32X dst src off) := fun _ => ⟨_, _, rfl, byteRow _ _ _ _ _ _ rfl⟩
theorem jne32K (dst : Reg) (imm : BitVec 32) (off : BitVec 16) : Statement (.jne32K dst imm off) := fun _ => ⟨_, _, rfl, byteRow _ _ _ _ _ _ rfl⟩
theorem jne32X (dst : Reg) (src : Reg) (off : BitVec 16) : Statement (.jne32X dst src off) := fun _ => ⟨_, _, rfl, byteRow _ _ _ _ _ _ rfl⟩
theorem jsgt32K (dst : Reg) (imm : BitVec 32) (off : BitVec 16) : Statement (.jsgt32K dst imm off) := fun _ => ⟨_, _, rfl, byteRow _ _ _ _ _ _ rfl⟩
theorem jsgt32X (dst : Reg) (src : Reg) (off : BitVec 16) : Statement (.jsgt32X dst src off) := fun _ => ⟨_, _, rfl, byteRow _ _ _ _ _ _ rfl⟩
theorem jsge32K (dst : Reg) (imm : BitVec 32) (off : BitVec 16) : Statement (.jsge32K dst imm off) := fun _ => ⟨_, _, rfl, byteRow _ _ _ _ _ _ rfl⟩
theorem jsge32X (dst : Reg) (src : Reg) (off : BitVec 16) : Statement (.jsge32X dst src off) := fun _ => ⟨_, _, rfl, byteRow _ _ _ _ _ _ rfl⟩
theorem jlt32K (dst : Reg) (imm : BitVec 32) (off : BitVec 16) : Statement (.jlt32K dst imm off) := fun _ => ⟨_, _, rfl, byteRow _ _ _ _ _ _ rfl⟩
theorem jlt32X (dst : Reg) (src : Reg) (off : BitVec 16) : Statement (.jlt32X dst src off) := fun _ => ⟨_, _, rfl, byteRow _ _ _ _ _ _ rfl⟩
theorem jle32K (dst : Reg) (imm : BitVec 32) (off : BitVec 16) : Statement (.jle32K dst imm off) := fun _ => ⟨_, _, rfl, byteRow _ _ _ _ _ _ rfl⟩
theorem jle32X (dst : Reg) (src : Reg) (off : BitVec 16) : Statement (.jle32X dst src off) := fun _ => ⟨_, _, rfl, byteRow _ _ _ _ _ _ rfl⟩
theorem jslt32K (dst : Reg) (imm : BitVec 32) (off : BitVec 16) : Statement (.jslt32K dst imm off) := fun _ => ⟨_, _, rfl, byteRow _ _ _ _ _ _ rfl⟩
theorem jslt32X (dst : Reg) (src : Reg) (off : BitVec 16) : Statement (.jslt32X dst src off) := fun _ => ⟨_, _, rfl, byteRow _ _ _ _ _ _ rfl⟩
theorem jsle32K (dst : Reg) (imm : BitVec 32) (off : BitVec 16) : Statement (.jsle32K dst imm off) := fun _ => ⟨_, _, rfl, byteRow _ _ _ _ _ _ rfl⟩
theorem jsle32X (dst : Reg) (src : Reg) (off : BitVec 16) : Statement (.jsle32X dst src off) := fun _ => ⟨_, _, rfl, byteRow _ _ _ _ _ _ rfl⟩
theorem call (imm : BitVec 32) : Statement (.call imm) := fun _ => ⟨_, _, rfl, callRow imm⟩
theorem exit : Statement (.exit) := fun _ => ⟨_, _, rfl, byteRow _ _ _ _ _ _ rfl⟩
theorem lddw (dst : Reg) (imm64 : BitVec 64) : Statement (.lddw dst imm64) := fun _ => ⟨_, _, rfl, byteRow _ _ _ _ _ _ rfl⟩
theorem ldxw (dst : Reg) (src : Reg) (off : BitVec 16) : Statement (.ldxw dst src off) := fun _ => ⟨_, _, rfl, byteRow _ _ _ _ _ _ rfl⟩
theorem ldxh (dst : Reg) (src : Reg) (off : BitVec 16) : Statement (.ldxh dst src off) := fun _ => ⟨_, _, rfl, byteRow _ _ _ _ _ _ rfl⟩
theorem ldxb (dst : Reg) (src : Reg) (off : BitVec 16) : Statement (.ldxb dst src off) := fun _ => ⟨_, _, rfl, byteRow _ _ _ _ _ _ rfl⟩
theorem ldxdw (dst : Reg) (src : Reg) (off : BitVec 16) : Statement (.ldxdw dst src off) := fun _ => ⟨_, _, rfl, byteRow _ _ _ _ _ _ rfl⟩
theorem stw (dst : Reg) (off : BitVec 16) (imm : BitVec 32) : Statement (.stw dst off imm) := fun _ => ⟨_, _, rfl, byteRow _ _ _ _ _ _ rfl⟩
theorem sth (dst : Reg) (off : BitVec 16) (imm : BitVec 32) : Statement (.sth dst off imm) := fun _ => ⟨_, _, rfl, byteRow _ _ _ _ _ _ rfl⟩
theorem stb (dst : Reg) (off : BitVec 16) (imm : BitVec 32) : Statement (.stb dst off imm) := fun _ => ⟨_, _, rfl, byteRow _ _ _ _ _ _ rfl⟩
theorem stdw (dst : Reg) (off : BitVec 16) (imm : BitVec 32) : Statement (.stdw dst off imm) := fun _ => ⟨_, _, rfl, byteRow _ _ _ _ _ _ rfl⟩
theorem stxw (dst : Reg) (off : BitVec 16) (src : Reg) : Statement (.stxw dst off src) := fun _ => ⟨_, _, rfl, byteRow _ _ _ _ _ _ rfl⟩
theorem stxh (dst : Reg) (off : BitVec 16) (src : Reg) : Statement (.stxh dst off src) := fun _ => ⟨_, _, rfl, byteRow _ _ _ _ _ _ rfl⟩
theorem stxb (dst : Reg) (off : BitVec 16) (src : Reg) : Statement (.stxb dst off src) := fun _ => ⟨_, _, rfl, byteRow _ _ _ _ _ _ rfl⟩
theorem stxdw (dst : Reg) (off : BitVec 16) (src : Reg) : Statement (.stxdw dst off src) := fun _ => ⟨_, _, rfl, byteRow _ _ _ _ _ _ rfl⟩
theorem faultMode7 (w : Word) : Statement (.faultMode7 w) := fun h => ⟨w, [], rfl, h⟩
theorem faultOp14Or15 (w : Word) : Statement (.faultOp14Or15 w) := fun h => ⟨w, [], rfl, h⟩
theorem modeAbs (w : Word) : Statement (.modeAbs w) := fun h => ⟨w, [], rfl, h⟩
theorem modeInd (w : Word) : Statement (.modeInd w) := fun h => ⟨w, [], rfl, h⟩
theorem modeLen (w : Word) : Statement (.modeLen w) := fun h => ⟨w, [], rfl, h⟩
theorem modeMsh (w : Word) : Statement (.modeMsh w) := fun h => ⟨w, [], rfl, h⟩
theorem modeXadd (w : Word) : Statement (.modeXadd w) := fun h => ⟨w, [], rfl, h⟩
theorem noRule00 (w : Word) : Statement (.noRule00 w) := fun h => ⟨w, [], rfl, h⟩
theorem noRule08 (w : Word) : Statement (.noRule08 w) := fun h => ⟨w, [], rfl, h⟩
theorem noRule10 (w : Word) : Statement (.noRule10 w) := fun h => ⟨w, [], rfl, h⟩
theorem noRule60 (w : Word) : Statement (.noRule60 w) := fun h => ⟨w, [], rfl, h⟩
theorem noRule68 (w : Word) : Statement (.noRule68 w) := fun h => ⟨w, [], rfl, h⟩
theorem noRule70 (w : Word) : Statement (.noRule70 w) := fun h => ⟨w, [], rfl, h⟩
theorem noRule78 (w : Word) : Statement (.noRule78 w) := fun h => ⟨w, [], rfl, h⟩
theorem noRule01 (w : Word) : Statement (.noRule01 w) := fun h => ⟨w, [], rfl, h⟩
theorem noRule09 (w : Word) : Statement (.noRule09 w) := fun h => ⟨w, [], rfl, h⟩
theorem noRule11 (w : Word) : Statement (.noRule11 w) := fun h => ⟨w, [], rfl, h⟩
theorem noRule19 (w : Word) : Statement (.noRule19 w) := fun h => ⟨w, [], rfl, h⟩
theorem noRule02 (w : Word) : Statement (.noRule02 w) := fun h => ⟨w, [], rfl, h⟩
theorem noRule0a (w : Word) : Statement (.noRule0a w) := fun h => ⟨w, [], rfl, h⟩
theorem noRule12 (w : Word) : Statement (.noRule12 w) := fun h => ⟨w, [], rfl, h⟩
theorem noRule1a (w : Word) : Statement (.noRule1a w) := fun h => ⟨w, [], rfl, h⟩
theorem noRule03 (w : Word) : Statement (.noRule03 w) := fun h => ⟨w, [], rfl, h⟩
theorem noRule0b (w : Word) : Statement (.noRule0b w) := fun h => ⟨w, [], rfl, h⟩
theorem noRule13 (w : Word) : Statement (.noRule13 w) := fun h => ⟨w, [], rfl, h⟩
theorem noRule1b (w : Word) : Statement (.noRule1b w) := fun h => ⟨w, [], rfl, h⟩
theorem neg32X (w : Word) : Statement (.neg32X w) := fun h => ⟨w, [], rfl, h⟩
theorem negX (w : Word) : Statement (.negX w) := fun h => ⟨w, [], rfl, h⟩
theorem endWidthD4 (w : Word) : Statement (.endWidthD4 w) := fun h => ⟨w, [], rfl, (Bool.and_eq_true_iff.1 h).1⟩
theorem endWidthDC (w : Word) : Statement (.endWidthDC w) := fun h => ⟨w, [], rfl, (Bool.and_eq_true_iff.1 h).1⟩
theorem endWidthD7 (w : Word) : Statement (.endWidthD7 w) := fun h => ⟨w, [], rfl, (Bool.and_eq_true_iff.1 h).1⟩
theorem endWidthDF (w : Word) : Statement (.endWidthDF w) := fun h => ⟨w, [], rfl, (Bool.and_eq_true_iff.1 h).1⟩
theorem jaX (w : Word) : Statement (.jaX w) := fun h => ⟨w, [], rfl, h⟩
theorem exitX (w : Word) : Statement (.exitX w) := fun h => ⟨w, [], rfl, h⟩
theorem callX (w : Word) : Statement (.callX w) := fun h => ⟨w, [], rfl, h⟩
theorem ja32 (w : Word) : Statement (.ja32 w) := fun h => ⟨w, [], rfl, h⟩
theorem ja32X (w : Word) : Statement (.ja32X w) := fun h => ⟨w, [], rfl, h⟩
theorem call32 (w : Word) : Statement (.call32 w) := fun h => ⟨w, [], rfl, h⟩
theorem call32X (w : Word) : Statement (.call32X w) := fun h => ⟨w, [], rfl, h⟩
theorem exit32 (w : Word) : Statement (.exit32 w) := fun h => ⟨w, [], rfl, h⟩
theorem exit32X (w : Word) : Statement (.exit32X w) := fun h => ⟨w, [], rfl, h⟩
theorem callSrc1 (w : Word) : Statement (.callSrc1 w) := fun h => ⟨w, [], rfl, h⟩
theorem callSrc2 (w : Word) : Statement (.callSrc2 w) := fun h => ⟨w, [], rfl, inRow_weaken w 0x30ff 0x2085 0x20ff 0x2085 (by decide) (by decide) h⟩
theorem callSrc4 (w : Word) : Statement (.callSrc4 w) := fun h => ⟨w, [], rfl, inRow_weaken w 0x70ff 0x4085 0x40ff 0x4085 (by decide) (by decide) h⟩
theorem callSrc8 (w : Word) : Statement (.callSrc8 w) := fun h => ⟨w, [], rfl, inRow_weaken w 0xf0ff 0x8085 0x80ff 0x8085 (by decide) (by decide) h⟩

end Sys2Proof.Laws.TableRow
end

