-- ==== Sys2Proof/Tests/Slice0.lean ====
section
/-! SUPPORT. The model's own tests: ill-formed terms, words written out from spec/opcode_table.json and R70, the
one-step vectors of spec/95_test_vectors.md, and for each statement a state and operands that meet its hypotheses. -/

namespace Sys2Proof.Machine

/-! ### Ill-formed terms are refused (one for each check of WellFormed) -/

theorem test_illFormed_1 : (Instr.faultMode7 0xc0).wellFormed = false ∧
    (Instr.faultOp14Or15 0xc4).wellFormed = false ∧
    (Instr.modeAbs 0x0).wellFormed = false ∧
    (Instr.modeInd 0x60).wellFormed = false ∧
    (Instr.modeLen 0xa0).wellFormed = false ∧
    (Instr.modeMsh 0x80).wellFormed = false ∧
    (Instr.modeXadd 0xe0).wellFormed = false ∧
    (Instr.noRule00 0x1).wellFormed = false ∧
    (Instr.noRule08 0x9).wellFormed = false := by decide

theorem test_illFormed_2 : (Instr.noRule10 0x11).wellFormed = false ∧
    (Instr.noRule60 0x61).wellFormed = false ∧
    (Instr.noRule68 0x69).wellFormed = false ∧
    (Instr.noRule70 0x71).wellFormed = false ∧
    (Instr.noRule78 0x79).wellFormed = false ∧
    (Instr.noRule01 0x0).wellFormed = false ∧
    (Instr.noRule09 0x8).wellFormed = false ∧
    (Instr.noRule11 0x10).wellFormed = false ∧
    (Instr.noRule19 0x18).wellFormed = false := by decide

theorem test_illFormed_3 : (Instr.noRule02 0x3).wellFormed = false ∧
    (Instr.noRule0a 0xb).wellFormed = false ∧
    (Instr.noRule12 0x13).wellFormed = false ∧
    (Instr.noRule1a 0x1b).wellFormed = false ∧
    (Instr.noRule03 0x2).wellFormed = false ∧
    (Instr.noRule0b 0xa).wellFormed = false ∧
    (Instr.noRule13 0x12).wellFormed = false ∧
    (Instr.noRule1b 0x1a).wellFormed = false ∧
    (Instr.neg32X 0x8d).wellFormed = false := by decide

theorem test_illFormed_4 : (Instr.negX 0x8e).wellFormed = false ∧
    (Instr.endWidthD4 0x10000000d4).wellFormed = false ∧
    (Instr.endWidthD4 0x8000000d5).wellFormed = false ∧
    (Instr.endWidthDC 0x10000000dc).wellFormed = false ∧
    (Instr.endWidthDC 0x8000000dd).wellFormed = false ∧
    (Instr.endWidthD7 0x10000000d7).wellFormed = false ∧
    (Instr.endWidthD7 0x8000000d6).wellFormed = false ∧
    (Instr.endWidthDF 0x10000000df).wellFormed = false ∧
    (Instr.endWidthDF 0x8000000de).wellFormed = false ∧
    (Instr.jaX 0xc).wellFormed = false ∧
    (Instr.exitX 0x9c).wellFormed = false ∧
    (Instr.callX 0x8c).wellFormed = false ∧
    (Instr.ja32 0x7).wellFormed = false := by decide

theorem test_illFormed_5 : (Instr.ja32X 0xf).wellFormed = false ∧
    (Instr.call32 0x87).wellFormed = false ∧
    (Instr.call32X 0x8f).wellFormed = false ∧
    (Instr.exit32 0x97).wellFormed = false ∧
    (Instr.exit32X 0x9f).wellFormed = false ∧
    (Instr.callSrc1 0x85).wellFormed = false ∧
    (Instr.callSrc2 0x3085).wellFormed = false ∧
    (Instr.callSrc4 0x5085).wellFormed = false ∧
    (Instr.callSrc8 0x9085).wellFormed = false := by decide

/-! ### Every row of the opcode table decodes

Each word is the row's `match` with dst = 3, src = 9, off = -2, imm = 0x81234567 in the fields of R70 that the row leaves open. -/

theorem test_decode_alu32_1 :
    decode [0x8123456700000304] = .ok (.add32K 3 0x81234567) ∧
    decode [0x000000000000930c] = .ok (.add32X 3 9) ∧
    decode [0x8123456700000314] = .ok (.sub32K 3 0x81234567) ∧
    decode [0x000000000000931c] = .ok (.sub32X 3 9) ∧
    decode [0x8123456700000324] = .ok (.mul32K 3 0x81234567) ∧
    decode [0x000000000000932c] = .ok (.mul32X 3 9) ∧
    decode [0x8123456700000334] = .ok (.div32K 3 0x81234567) ∧
    decode [0x000000000000933c] = .ok (.div32X 3 9) ∧
    decode [0x8123456700000344] = .ok (.or32K 3 0x81234567) ∧
    decode [0x000000000000934c] = .ok (.or32X 3 9) ∧
    decode [0x8123456700000354] = .ok (.and32K 3 0x81234567) ∧
    decode [0x000000000000935c] = .ok (.and32X 3 9) := by decide

theorem test_decode_alu32_2 :
    decode [0x8123456700000364] = .ok (.lsh32K 3 0x81234567) ∧
    decode [0x000000000000936c] = .ok (.lsh32X 3 9) ∧
    decode [0x8123456700000374] = .ok (.rsh32K 3 0x81234567) ∧
    decode [0x000000000000937c] = .ok (.rsh32X 3 9) ∧
    decode [0x0000000000000384] = .ok (.neg32 3) ∧
    decode [0x8123456700000394] = .ok (.mod32K 3 0x81234567) ∧
    decode [0x000000000000939c] = .ok (.mod32X 3 9) ∧
    decode [0x81234567000003a4] = .ok (.xor32K 3 0x81234567) ∧
    decode [0x00000000000093ac] = .ok (.xor32X 3 9) ∧
    decode [0x81234567000003b4] = .ok (.mov32K 3 0x81234567) ∧
    decode [0x00000000000093bc] = .ok (.mov32X 3 9) ∧
    decode [0x81234567000003c4] = .ok (.arsh32K 3 0x81234567) := by decide

theorem test_decode_alu32_3 :
    decode [0x00000000000093cc] = .ok (.arsh32X 3 9) := by decide

theorem test_decode_alu64_1 :
    decode [0x8123456700000307] = .ok (.addK 3 0x81234567) ∧
    decode [0x000000000000930f] = .ok (.addX 3 9) ∧
    decode [0x8123456700000317] = .ok (.subK 3 0x81234567) ∧
    decode [0x000000000000931f] = .ok (.subX 3 9) ∧
    decode [0x8123456700000327] = .ok (.mulK 3 0x81234567) ∧
    decode [0x000000000000932f] = .ok (.mulX 3 9) ∧
    decode [0x8123456700000337] = .ok (.divK 3 0x81234567) ∧
    decode [0x000000000000933f] = .ok (.divX 3 9) ∧
    decode [0x8123456700000347] = .ok (.orK 3 0x81234567) ∧
    decode [0x000000000000934f] = .ok (.orX 3 9) ∧
    decode [0x8123456700000357] = .ok (.andK 3 0x81234567) ∧
    decode [0x000000000000935f] = .ok (.andX 3 9) := by decide

theorem test_decode_alu64_2 :
    decode [0x8123456700000367] = .ok (.lshK 3 0x81234567) ∧
    decode [0x000000000000936f] = .ok (.lshX 3 9) ∧
    decode [0x8123456700000377] = .ok (.rshK 3 0x81234567) ∧
    decode [0x000000000000937f] = .ok (.rshX 3 9) ∧
    decode [0x0000000000000387] = .ok (.neg 3) ∧
    decode [0x8123456700000397] = .ok (.modK 3 0x81234567) ∧
    decode [0x000000000000939f] = .ok (.modX 3 9) ∧
    decode [0x81234567000003a7] = .ok (.xorK 3 0x81234567) ∧
    decode [0x00000000000093af] = .ok (.xorX 3 9) ∧
    decode [0x81234567000003b7] = .ok (.movK 3 0x81234567) ∧
    decode [0x00000000000093bf] = .ok (.movX 3 9) ∧
    decode [0x81234567000003c7] = .ok (.arshK 3 0x81234567) := by decide

theorem test_decode_alu64_3 :
    decode [0x00000000000093cf] = .ok (.arshX 3 9) := by decide

theorem test_decode_end_1 :
    decode [0x00000010000003d4] = .ok (.le16 3) ∧
    decode [0x00000020000003d4] = .ok (.le32 3) ∧
    decode [0x00000040000003d4] = .ok (.le64 3) ∧
    decode [0x00000010000003dc] = .ok (.be16 3) ∧
    decode [0x00000020000003dc] = .ok (.be32 3) ∧
    decode [0x00000040000003dc] = .ok (.be64 3) ∧
    decode [0x00000010000003d7] = .ok (.le16Alu64 3) ∧
    decode [0x00000020000003d7] = .ok (.le32Alu64 3) ∧
    decode [0x00000040000003d7] = .ok (.le64Alu64 3) ∧
    decode [0x00000010000003df] = .ok (.be16Alu64 3) ∧
    decode [0x00000020000003df] = .ok (.be32Alu64 3) ∧
    decode [0x00000040000003df] = .ok (.be64Alu64 3) := by decide

theorem test_decode_jmp_1 :
    decode [0x00000000fffe0005] = .ok (.ja (-2)) ∧
    decode [0x81234567fffe0315] = .ok (.jeqK 3 0x81234567 (-2)) ∧
    decode [0x00000000fffe931d] = .ok (.jeqX 3 9 (-2)) ∧
    decode [0x81234567fffe0325] = .ok (.jgtK 3 0x81234567 (-2)) ∧
    decode [0x00000000fffe932d] = .ok (.jgtX 3 9 (-2)) ∧
    decode [0x81234567fffe0335] = .ok (.jgeK 3 0x81234567 (-2)) ∧
    decode [0x00000000fffe933d] = .ok (.jgeX 3 9 (-2)) ∧
    decode [0x81234567fffe0345] = .ok (.jsetK 3 0x81234567 (-2)) ∧
    decode [0x00000000fffe934d] = .ok (.jsetX 3 9 (-2)) ∧
    decode [0x81234567fffe0355] = .ok (.jneK 3 0x81234567 (-2)) ∧
    decode [0x00000000fffe935d] = .ok (.jneX 3 9 (-2)) ∧
    decode [0x81234567fffe0365] = .ok (.jsgtK 3 0x81234567 (-2)) := by decide

theorem test_decode_jmp_2 :
    decode [0x00000000fffe936d] = .ok (.jsgtX 3 9 (-2)) ∧
    decode [0x81234567fffe0375] = .ok (.jsgeK 3 0x81234567 (-2)) ∧
    decode [0x00000000fffe937d] = .ok (.jsgeX 3 9 (-2)) ∧
    decode [0x81234567fffe03a5] = .ok (.jltK 3 0x81234567 (-2)) ∧
    decode [0x00000000fffe93ad] = .ok (.jltX 3 9 (-2)) ∧
    decode [0x81234567fffe03b5] = .ok (.jleK 3 0x81234567 (-2)) ∧
    decode [0x00000000fffe93bd] = .ok (.jleX 3 9 (-2)) ∧
    decode [0x81234567fffe03c5] = .ok (.jsltK 3 0x81234567 (-2)) ∧
    decode [0x00000000fffe93cd] = .ok (.jsltX 3 9 (-2)) ∧
    decode [0x81234567fffe03d5] = .ok (.jsleK 3 0x81234567 (-2)) ∧
    decode [0x00000000fffe93dd] = .ok (.jsleX 3 9 (-2)) ∧
    decode [0x0000000000000095] = .ok (.exit) := by decide

theorem test_decode_jmp32_1 :
    decode [0x81234567fffe0316] = .ok (.jeq32K 3 0x81234567 (-2)) ∧
    decode [0x00000000fffe931e] = .ok (.jeq32X 3 9 (-2)) ∧
    decode [0x81234567fffe0326] = .ok (.jgt32K 3 0x81234567 (-2)) ∧
    decode [0x00000000fffe932e] = .ok (.jgt32X 3 9 (-2)) ∧
    decode [0x81234567fffe0336] = .ok (.jge32K 3 0x81234567 (-2)) ∧
    decode [0x00000000fffe933e] = .ok (.jge32X 3 9 (-2)) ∧
    decode [0x81234567fffe0346] = .ok (.jset32K 3 0x81234567 (-2)) ∧
    decode [0x00000000fffe934e] = .ok (.jset32X 3 9 (-2)) ∧
    decode [0x81234567fffe0356] = .ok (.jne32K 3 0x81234567 (-2)) ∧
    decode [0x00000000fffe935e] = .ok (.jne32X 3 9 (-2)) ∧
    decode [0x81234567fffe0366] = .ok (.jsgt32K 3 0x81234567 (-2)) ∧
    decode [0x00000000fffe936e] = .ok (.jsgt32X 3 9 (-2)) := by decide

theorem test_decode_jmp32_2 :
    decode [0x81234567fffe0376] = .ok (.jsge32K 3 0x81234567 (-2)) ∧
    decode [0x00000000fffe937e] = .ok (.jsge32X 3 9 (-2)) ∧
    decode [0x81234567fffe03a6] = .ok (.jlt32K 3 0x81234567 (-2)) ∧
    decode [0x00000000fffe93ae] = .ok (.jlt32X 3 9 (-2)) ∧
    decode [0x81234567fffe03b6] = .ok (.jle32K 3 0x81234567 (-2)) ∧
    decode [0x00000000fffe93be] = .ok (.jle32X 3 9 (-2)) ∧
    decode [0x81234567fffe03c6] = .ok (.jslt32K 3 0x81234567 (-2)) ∧
    decode [0x00000000fffe93ce] = .ok (.jslt32X 3 9 (-2)) ∧
    decode [0x81234567fffe03d6] = .ok (.jsle32K 3 0x81234567 (-2)) ∧
    decode [0x00000000fffe93de] = .ok (.jsle32X 3 9 (-2)) := by decide

theorem test_decode_call_1 :
    decode [0x8123456700000085] = .ok (.call 0x81234567) := by decide

theorem test_decode_mem_1 :
    decode [0x5566778800000318, 0x1122334400000000] = .ok (.lddw 3 0x1122334455667788) ∧
    decode [0x00000000fffe9361] = .ok (.ldxw 3 9 (-2)) ∧
    decode [0x00000000fffe9369] = .ok (.ldxh 3 9 (-2)) ∧
    decode [0x00000000fffe9371] = .ok (.ldxb 3 9 (-2)) ∧
    decode [0x00000000fffe9379] = .ok (.ldxdw 3 9 (-2)) ∧
    decode [0x81234567fffe0362] = .ok (.stw 3 (-2) 0x81234567) ∧
    decode [0x81234567fffe036a] = .ok (.sth 3 (-2) 0x81234567) ∧
    decode [0x81234567fffe0372] = .ok (.stb 3 (-2) 0x81234567) ∧
    decode [0x81234567fffe037a] = .ok (.stdw 3 (-2) 0x81234567) ∧
    decode [0x00000000fffe9363] = .ok (.stxw 3 (-2) 9) ∧
    decode [0x00000000fffe936b] = .ok (.stxh 3 (-2) 9) ∧
    decode [0x00000000fffe9373] = .ok (.stxb 3 (-2) 9) := by decide

theorem test_decode_mem_2 :
    decode [0x00000000fffe937b] = .ok (.stxdw 3 (-2) 9) := by decide

theorem test_decode_abort_1 :
    decode [0x81234567fffe93fa] = .ok (.faultMode7 0x81234567fffe93fa) ∧
    decode [0x81234567fffe93fe] = .ok (.faultOp14Or15 0x81234567fffe93fe) ∧
    decode [0x81234567fffe933a] = .ok (.modeAbs 0x81234567fffe933a) ∧
    decode [0x81234567fffe935a] = .ok (.modeInd 0x81234567fffe935a) ∧
    decode [0x81234567fffe939a] = .ok (.modeLen 0x81234567fffe939a) ∧
    decode [0x81234567fffe93ba] = .ok (.modeMsh 0x81234567fffe93ba) ∧
    decode [0x81234567fffe93da] = .ok (.modeXadd 0x81234567fffe93da) ∧
    decode [0x81234567fffe9300] = .ok (.noRule00 0x81234567fffe9300) ∧
    decode [0x81234567fffe9308] = .ok (.noRule08 0x81234567fffe9308) ∧
    decode [0x81234567fffe9310] = .ok (.noRule10 0x81234567fffe9310) ∧
    decode [0x81234567fffe9360] = .ok (.noRule60 0x81234567fffe9360) ∧
    decode [0x81234567fffe9368] = .ok (.noRule68 0x81234567fffe9368) := by decide

theorem test_decode_abort_2 :
    decode [0x81234567fffe9370] = .ok (.noRule70 0x81234567fffe9370) ∧
    decode [0x81234567fffe9378] = .ok (.noRule78 0x81234567fffe9378) ∧
    decode [0x81234567fffe9301] = .ok (.noRule01 0x81234567fffe9301) ∧
    decode [0x81234567fffe9309] = .ok (.noRule09 0x81234567fffe9309) ∧
    decode [0x81234567fffe9311] = .ok (.noRule11 0x81234567fffe9311) ∧
    decode [0x81234567fffe9319] = .ok (.noRule19 0x81234567fffe9319) ∧
    decode [0x81234567fffe9302] = .ok (.noRule02 0x81234567fffe9302) ∧
    decode [0x81234567fffe930a] = .ok (.noRule0a 0x81234567fffe930a) ∧
    decode [0x81234567fffe9312] = .ok (.noRule12 0x81234567fffe9312) ∧
    decode [0x81234567fffe931a] = .ok (.noRule1a 0x81234567fffe931a) ∧
    decode [0x81234567fffe9303] = .ok (.noRule03 0x81234567fffe9303) ∧
    decode [0x81234567fffe930b] = .ok (.noRule0b 0x81234567fffe930b) := by decide

theorem test_decode_abort_3 :
    decode [0x81234567fffe9313] = .ok (.noRule13 0x81234567fffe9313) ∧
    decode [0x81234567fffe931b] = .ok (.noRule1b 0x81234567fffe931b) ∧
    decode [0x81234567fffe938c] = .ok (.neg32X 0x81234567fffe938c) ∧
    decode [0x81234567fffe938f] = .ok (.negX 0x81234567fffe938f) ∧
    decode [0x81234567fffe93d4] = .ok (.endWidthD4 0x81234567fffe93d4) ∧
    decode [0x81234567fffe93dc] = .ok (.endWidthDC 0x81234567fffe93dc) ∧
    decode [0x81234567fffe93d7] = .ok (.endWidthD7 0x81234567fffe93d7) ∧
    decode [0x81234567fffe93df] = .ok (.endWidthDF 0x81234567fffe93df) ∧
    decode [0x81234567fffe930d] = .ok (.jaX 0x81234567fffe930d) ∧
    decode [0x81234567fffe939d] = .ok (.exitX 0x81234567fffe939d) ∧
    decode [0x81234567fffe938d] = .ok (.callX 0x81234567fffe938d) ∧
    decode [0x81234567fffe9306] = .ok (.ja32 0x81234567fffe9306) := by decide

theorem test_decode_abort_4 :
    decode [0x81234567fffe930e] = .ok (.ja32X 0x81234567fffe930e) ∧
    decode [0x81234567fffe9386] = .ok (.call32 0x81234567fffe9386) ∧
    decode [0x81234567fffe938e] = .ok (.call32X 0x81234567fffe938e) ∧
    decode [0x81234567fffe9396] = .ok (.exit32 0x81234567fffe9396) ∧
    decode [0x81234567fffe939e] = .ok (.exit32X 0x81234567fffe939e) ∧
    decode [0x81234567fffe1385] = .ok (.callSrc1 0x81234567fffe1385) ∧
    decode [0x81234567fffe2385] = .ok (.callSrc2 0x81234567fffe2385) ∧
    decode [0x81234567fffe4385] = .ok (.callSrc4 0x81234567fffe4385) ∧
    decode [0x81234567fffe8385] = .ok (.callSrc8 0x81234567fffe8385) := by decide

/-- R79: the stored bytes of E2's first word, least significant first. -/
theorem test_decodeBytes : decodeBytes [0x04, 0x03, 0x00, 0x00, 0xf9, 0xff, 0xff, 0xff] = .ok (.add32K 3 (-7)) := by
  decide

/-- Stray src bits that the row does not name do not change it (log 14). -/
theorem test_decode_callSrc_lowest : decode [0xe085] = .ok (.callSrc2 0xe085) ∧ decode [0xc085] = .ok (.callSrc4 0xc085) ∧
    decode [0xf085] = .ok (.callSrc1 0xf085) := by decide

/-- R87: a field the row does not use is ignored (here src, off and imm of EXIT, and dst and src of JA). -/
theorem test_decode_unused : decode [0xffffffffffffff95] = .ok .exit ∧ decode [0xffffffff0002ff05] = .ok (.ja 2) := by decide

/-! ### One-step vectors of spec/95_test_vectors.md -/

/-- A register file: `x[10]` is 0x1200 and every register not listed is 0. -/
def file (l : List (Reg × Word)) : Vector Word 16 :=
  l.foldl (fun v p => v.set p.1 p.2) ((Vector.replicate 16 0).set 10 0x1200)

/-- The common start state with these registers and program words. -/
def from0 (l : List (Reg × Word)) (ws : List Word) : State := { State.reset with regs := file l, prog := ws }

/-- The bytes of stack S. -/
def stackS : Memory :=
  [(0x1000, 0x5a), (0x11f8, 0x88), (0x11f9, 0x77), (0x11fa, 0x66), (0x11fb, 0x55), (0x11fc, 0x44), (0x11fd, 0x33),
    (0x11fe, 0x22), (0x11ff, 0x11)]

/-- The host region of the V7 rows, read-only, and its bytes. -/
def withRegion (s : State) : State :=
  { s with
    regions := [⟨0x2000, 16, false⟩]
    mem := [(0x2000, 1), (0x2001, 2), (0x2002, 3), (0x2003, 4), (0x2004, 5), (0x2005, 6), (0x2006, 7), (0x2007, 8)] }

/-- What a step must leave. -/
def after (s : State) (ok : State → Bool) : Bool :=
  match step s with
  | .next t => t.steps == s.steps + 1 && ok t
  | _ => false

/-- Still Running, at this pc, with these registers and this memory. -/
def goes (l : List (Reg × Word)) (m : Memory) (pc : Int) (t : State) : Bool :=
  t.status == .running && t.pc == pc && t.regs == file l && t.mem == m

/-- Aborted at slot 0 with no register or memory changed. -/
def aborts (l : List (Reg × Word)) (m : Memory) (f : FaultCode) (info : Word) (t : State) : Bool :=
  t.status == .aborted && t.fault == f && t.faultInfo == info && t.faultPc == 0 && t.pc == 0 && t.result == 0 &&
    t.regs == file l && t.mem == m

/-- Terminated, with the registers as they were. -/
def ends (l : List (Reg × Word)) (v : Word) (c : TermCause) (t : State) : Bool :=
  t.status == .terminated && t.result == v && t.termCause == c && t.fault == .none && t.pc == 1 && t.regs == file l &&
    t.mem == []

theorem test_step_V1_1 :
    after (from0 [(1, 0xffffffff)] [0x0000000100000104]) (goes [(1, 0x0)] [] 1) = true ∧
    after (from0 [(1, 0x100000005), (2, 0xffffffff00000003)] [0x000000000000210c]) (goes [(1, 0x8), (2, 0xffffffff00000003)] [] 1) = true ∧
    after (from0 [(1, 0x123456789)] [0x000000000000111c]) (goes [(1, 0x0)] [] 1) = true ∧
    after (from0 [(1, 0x0)] [0x0000000100000114]) (goes [(1, 0xffffffff)] [] 1) = true ∧
    after (from0 [(1, 0x10000), (2, 0x10000)] [0x000000000000212c]) (goes [(1, 0x0), (2, 0x10000)] [] 1) = true ∧
    after (from0 [(1, 0x3)] [0xffffffff00000124]) (goes [(1, 0xfffffffd)] [] 1) = true := by decide

theorem test_step_V1_2 :
    after (from0 [(1, 0xffffffff)] [0x0000000200000134]) (goes [(1, 0x7fffffff)] [] 1) = true ∧
    after (from0 [(1, 0xffffffff)] [0xffffffff00000134]) (goes [(1, 0x1)] [] 1) = true ∧
    after (from0 [(1, 0x7), (2, 0x100000000)] [0x000000000000213c]) (ends [(1, 0x7), (2, 0x100000000)] 0x0 .divideByZero) = true ∧
    after (from0 [(1, 0x7)] [0x0000000000000134]) (ends [(1, 0x7)] 0x0 .divideByZero) = true ∧
    after (from0 [(1, 0xffffffff00000001)] [0xffffff0000000144]) (goes [(1, 0xffffff01)] [] 1) = true ∧
    after (from0 [(1, 0xffffffffffffffff), (2, 0xf0f0)] [0x000000000000215c]) (goes [(1, 0xf0f0), (2, 0xf0f0)] [] 1) = true := by decide

theorem test_step_V1_3 :
    after (from0 [(1, 0x1)] [0x0000001f00000164]) (goes [(1, 0x80000000)] [] 1) = true ∧
    after (from0 [(1, 0x1)] [0x0000002000000164]) (goes [(1, 0x1)] [] 1) = true ∧
    after (from0 [(1, 0x1), (2, 0x21)] [0x000000000000216c]) (goes [(1, 0x2), (2, 0x21)] [] 1) = true ∧
    after (from0 [(1, 0xfffffffff0000000)] [0x0000000400000174]) (goes [(1, 0xf000000)] [] 1) = true ∧
    after (from0 [(1, 0x100000001)] [0x0000000000000184]) (goes [(1, 0xffffffff)] [] 1) = true ∧
    after (from0 [(1, 0x80000000)] [0x0000000000000184]) (goes [(1, 0x80000000)] [] 1) = true := by decide

theorem test_step_V1_4 :
    after (from0 [(1, 0xa)] [0x0000000300000194]) (goes [(1, 0x1)] [] 1) = true ∧
    after (from0 [(1, 0xa), (2, 0xffffffff00000000)] [0x000000000000219c]) (ends [(1, 0xa), (2, 0xffffffff00000000)] 0x0 .divideByZero) = true ∧
    after (from0 [(1, 0x123456789)] [0x00000000000011ac]) (goes [(1, 0x0)] [] 1) = true ∧
    after (from0 [] [0xffffffff000001b4]) (goes [(1, 0xffffffff)] [] 1) = true ∧
    after (from0 [(2, 0xaaaaaaaabbbbbbbb)] [0x00000000000021bc]) (goes [(1, 0xbbbbbbbb), (2, 0xaaaaaaaabbbbbbbb)] [] 1) = true ∧
    after (from0 [(1, 0x80000000)] [0x00000004000001c4]) (goes [(1, 0xf8000000)] [] 1) = true := by decide

theorem test_step_V1_5 :
    after (from0 [(1, 0xffffffff80000000)] [0x00000023000001c4]) (goes [(1, 0xf0000000)] [] 1) = true ∧
    after (from0 [(1, 0x5)] [0x000000000000218c]) (aborts [(1, 0x5)] [] .unimplementedOpcode 0x218c) = true := by decide

theorem test_step_V2_1 :
    after (from0 [] [0xffffffff00000107]) (goes [(1, 0xffffffffffffffff)] [] 1) = true ∧
    after (from0 [(1, 0xffffffffffffffff), (2, 0x2)] [0x000000000000210f]) (goes [(1, 0x1), (2, 0x2)] [] 1) = true ∧
    after (from0 [(1, 0x0), (2, 0x1)] [0x000000000000211f]) (goes [(1, 0xffffffffffffffff), (2, 0x1)] [] 1) = true ∧
    after (from0 [(1, 0x100000000), (2, 0x100000000)] [0x000000000000212f]) (goes [(1, 0x0), (2, 0x100000000)] [] 1) = true ∧
    after (from0 [(1, 0x5)] [0xffffffff00000127]) (goes [(1, 0xfffffffffffffffb)] [] 1) = true ∧
    after (from0 [(1, 0xffffffffffffffff)] [0x0000000200000137]) (goes [(1, 0x7fffffffffffffff)] [] 1) = true := by decide

theorem test_step_V2_2 :
    after (from0 [(1, 0x5)] [0xffffffff00000137]) (goes [(1, 0x0)] [] 1) = true ∧
    after (from0 [(1, 0x5), (2, 0x0)] [0x000000000000213f]) (ends [(1, 0x5), (2, 0x0)] 0x0 .divideByZero) = true ∧
    after (from0 [(1, 0x5), (2, 0x100000000)] [0x000000000000213f]) (goes [(1, 0x0), (2, 0x100000000)] [] 1) = true ∧
    after (from0 [(1, 0x100000000)] [0x0000001000000147]) (goes [(1, 0x100000010)] [] 1) = true ∧
    after (from0 [(1, 0x1234567890abcdef)] [0xffffff0000000157]) (goes [(1, 0x1234567890abcd00)] [] 1) = true ∧
    after (from0 [(1, 0x1)] [0x0000003f00000167]) (goes [(1, 0x8000000000000000)] [] 1) = true := by decide

theorem test_step_V2_3 :
    after (from0 [(1, 0x1)] [0x0000004000000167]) (goes [(1, 0x1)] [] 1) = true ∧
    after (from0 [(1, 0x8000000000000000), (2, 0x44)] [0x000000000000217f]) (goes [(1, 0x800000000000000), (2, 0x44)] [] 1) = true ∧
    after (from0 [(1, 0x0)] [0x0000000000000187]) (goes [(1, 0x0)] [] 1) = true ∧
    after (from0 [(1, 0x8000000000000000)] [0x0000000000000187]) (goes [(1, 0x8000000000000000)] [] 1) = true ∧
    after (from0 [(1, 0xfffffffffffffff9)] [0x0000000a00000197]) (goes [(1, 0x9)] [] 1) = true ∧
    after (from0 [(1, 0x9)] [0x0000000000000197]) (ends [(1, 0x9)] 0x0 .divideByZero) = true := by decide

theorem test_step_V2_4 :
    after (from0 [(1, 0xff00ff00ff00ff)] [0xffffffff000001a7]) (goes [(1, 0xff00ff00ff00ff00)] [] 1) = true ∧
    after (from0 [] [0x80000000000001b7]) (goes [(1, 0xffffffff80000000)] [] 1) = true ∧
    after (from0 [(1, 0x1234)] [0x00000000000011bf]) (goes [(1, 0x1234)] [] 1) = true ∧
    after (from0 [(1, 0x8000000000000000)] [0x0000003f000001c7]) (goes [(1, 0xffffffffffffffff)] [] 1) = true ∧
    after (from0 [(1, 0xf000000000000000), (2, 0x7c)] [0x00000000000021cf]) (goes [(1, 0xffffffffffffffff), (2, 0x7c)] [] 1) = true ∧
    after (from0 [(1, 0x5)] [0x000000000000218f]) (aborts [(1, 0x5)] [] .unimplementedOpcode 0x218f) = true := by decide

theorem test_step_V3_1 :
    after (from0 [(1, 0x1122334455667788)] [0x00000010000001d4]) (goes [(1, 0x7788)] [] 1) = true ∧
    after (from0 [(1, 0x1122334455667788)] [0x00000020000001d4]) (goes [(1, 0x55667788)] [] 1) = true ∧
    after (from0 [(1, 0x1122334455667788)] [0x00000040000001d4]) (goes [(1, 0x1122334455667788)] [] 1) = true ∧
    after (from0 [(1, 0x1122334455667788)] [0x00000010000001dc]) (goes [(1, 0x8877)] [] 1) = true ∧
    after (from0 [(1, 0x1122334455667788)] [0x00000020000001dc]) (goes [(1, 0x88776655)] [] 1) = true ∧
    after (from0 [(1, 0x1122334455667788)] [0x00000040000001dc]) (goes [(1, 0x8877665544332211)] [] 1) = true := by decide

theorem test_step_V3_2 :
    after (from0 [(1, 0x1122334455667788)] [0x00000010000001d7]) (goes [(1, 0x7788)] [] 1) = true ∧
    after (from0 [(1, 0x1122334455667788)] [0x00000040000001df]) (goes [(1, 0x8877665544332211)] [] 1) = true ∧
    after (from0 [(1, 0x1122334455667788)] [0x00000008000001d4]) (aborts [(1, 0x1122334455667788)] [] .invalidOperand 0x8) = true ∧
    after (from0 [(1, 0x1122334455667788)] [0xfffffff0000001dc]) (aborts [(1, 0x1122334455667788)] [] .invalidOperand 0xfffffffffffffff0) = true := by decide

theorem test_step_V4_1 :
    after (from0 [] [0x0000000000020005]) (goes [] [] 3) = true ∧
    after (from0 [] [0x00000000ffff0005]) (goes [] [] 0) = true ∧
    after (from0 [(1, 0x5)] [0x0000000500010115]) (goes [(1, 0x5)] [] 2) = true ∧
    after (from0 [(1, 0x100000005)] [0x0000000500010115]) (goes [(1, 0x100000005)] [] 1) = true ∧
    after (from0 [(1, 0xfffffffffffffffe)] [0xffffffff00010125]) (goes [(1, 0xfffffffffffffffe)] [] 1) = true ∧
    after (from0 [(1, 0x7), (2, 0x7)] [0x000000000001213d]) (goes [(1, 0x7), (2, 0x7)] [] 2) = true := by decide

theorem test_step_V4_2 :
    after (from0 [(1, 0xffffffff00000000)] [0x8000000000010145]) (goes [(1, 0xffffffff00000000)] [] 2) = true ∧
    after (from0 [(1, 0xf0), (2, 0xf)] [0x000000000001214d]) (goes [(1, 0xf0), (2, 0xf)] [] 1) = true ∧
    after (from0 [(1, 0x1), (2, 0x2)] [0x000000000001215d]) (goes [(1, 0x1), (2, 0x2)] [] 2) = true ∧
    after (from0 [(1, 0xffffffffffffffff)] [0xfffffffe00010165]) (goes [(1, 0xffffffffffffffff)] [] 2) = true ∧
    after (from0 [(1, 0xffffffffffffffff), (2, 0x0)] [0x000000000001217d]) (goes [(1, 0xffffffffffffffff), (2, 0x0)] [] 1) = true ∧
    after (from0 [(1, 0x1), (2, 0xffffffffffffffff)] [0x00000000000121ad]) (goes [(1, 0x1), (2, 0xffffffffffffffff)] [] 2) = true := by decide

theorem test_step_V4_3 :
    after (from0 [(1, 0x1)] [0x00000000000101b5]) (goes [(1, 0x1)] [] 1) = true ∧
    after (from0 [(1, 0x8000000000000000)] [0x00000000000101c5]) (goes [(1, 0x8000000000000000)] [] 2) = true ∧
    after (from0 [(1, 0xffffffffffffffff)] [0xffffffff000101d5]) (goes [(1, 0xffffffffffffffff)] [] 2) = true ∧
    after (from0 [(0, 0x13ba)] [0x0000000000000095]) (ends [(0, 0x13ba)] 0x13ba .exit) = true ∧
    after (from0 [] [0x000000000000000d]) (aborts [] [] .unimplementedOpcode 0xd) = true ∧
    after (from0 [] [0x000000000000009d]) (aborts [] [] .unimplementedOpcode 0x9d) = true := by decide

theorem test_step_V5_1 :
    after (from0 [(1, 0x100000005)] [0x0000000500010116]) (goes [(1, 0x100000005)] [] 2) = true ∧
    after (from0 [(1, 0x1), (2, 0xffffffff00000000)] [0x000000000001212e]) (goes [(1, 0x1), (2, 0xffffffff00000000)] [] 2) = true ∧
    after (from0 [(1, 0xffffffff)] [0xffffffff00010136]) (goes [(1, 0xffffffff)] [] 2) = true ∧
    after (from0 [(1, 0xffffffff00000000)] [0x8000000000010146]) (goes [(1, 0xffffffff00000000)] [] 1) = true ∧
    after (from0 [(1, 0x100000000)] [0x0000000000010156]) (goes [(1, 0x100000000)] [] 1) = true ∧
    after (from0 [(1, 0x80000000)] [0x0000000000010166]) (goes [(1, 0x80000000)] [] 1) = true := by decide

theorem test_step_V5_2 :
    after (from0 [(1, 0x7fffffff)] [0xffffffff00010176]) (goes [(1, 0x7fffffff)] [] 2) = true ∧
    after (from0 [(1, 0x100000000)] [0x00000001000101a6]) (goes [(1, 0x100000000)] [] 2) = true ∧
    after (from0 [(1, 0x1ffffffff), (2, 0xfffffffe)] [0x00000000000121be]) (goes [(1, 0x1ffffffff), (2, 0xfffffffe)] [] 1) = true ∧
    after (from0 [(1, 0x80000000), (2, 0x7fffffff)] [0x00000000000121ce]) (goes [(1, 0x80000000), (2, 0x7fffffff)] [] 2) = true ∧
    after (from0 [(1, 0x100000001)] [0x00000000000101d6]) (goes [(1, 0x100000001)] [] 1) = true ∧
    after (from0 [] [0x0000000000010006]) (aborts [] [] .unimplementedOpcode 0x10006) = true := by decide

theorem test_step_V5_3 :
    after (from0 [] [0x0000000000000096]) (aborts [] [] .unimplementedOpcode 0x96) = true := by decide

theorem test_step_V6_1 :
    after (from0 [] [0x5566778800000118, 0x1122334400000000]) (goes [(1, 0x1122334455667788)] [] 2) = true ∧
    after (from0 [] [0xffffffff00000118, 0x0000000000000000]) (goes [(1, 0xffffffff)] [] 2) = true ∧
    after (from0 [] [0x0000000000000118, 0xffffffff00000000]) (goes [(1, 0xffffffff00000000)] [] 2) = true ∧
    after (from0 [] [0x0000000100000118]) (aborts [] [] .pcOutOfRange 0x1) = true := by decide

theorem test_step_V7_1 :
    after ({ from0 [] [0x00000000fff8a261] with mem := stackS }) (goes [(2, 0x55667788)] stackS 1) = true ∧
    after ({ from0 [] [0x00000000fffaa369] with mem := stackS }) (goes [(3, 0x5566)] stackS 1) = true ∧
    after ({ from0 [] [0x00000000ffffa471] with mem := stackS }) (goes [(4, 0x11)] stackS 1) = true ∧
    after ({ from0 [] [0x00000000fff8a579] with mem := stackS }) (goes [(5, 0x1122334455667788)] stackS 1) = true ∧
    after ({ from0 [] [0x00000000fff8aa79] with mem := stackS }) (goes [(10, 0x1122334455667788)] stackS 1) = true ∧
    after (from0 [(1, 0x1122334455667788)] [0x00000000fff81a7b]) (goes [(1, 0x1122334455667788)] [(0x11f8, 0x88), (0x11f9, 0x77), (0x11fa, 0x66), (0x11fb, 0x55), (0x11fc, 0x44), (0x11fd, 0x33), (0x11fe, 0x22), (0x11ff, 0x11)] 1) = true := by decide

theorem test_step_V7_2 :
    after (from0 [(1, 0x1122334455667788)] [0x00000000fffc1a63]) (goes [(1, 0x1122334455667788)] [(0x11fc, 0x88), (0x11fd, 0x77), (0x11fe, 0x66), (0x11ff, 0x55)] 1) = true ∧
    after (from0 [(1, 0x1122334455667788)] [0x00000000fffe1a6b]) (goes [(1, 0x1122334455667788)] [(0x11fe, 0x88), (0x11ff, 0x77)] 1) = true ∧
    after (from0 [(1, 0x1122334455667788)] [0x00000000ffff1a73]) (goes [(1, 0x1122334455667788)] [(0x11ff, 0x88)] 1) = true ∧
    after (from0 [] [0xfffffffffffc0a62]) (goes [] [(0x11fc, 0xff), (0x11fd, 0xff), (0x11fe, 0xff), (0x11ff, 0xff)] 1) = true ∧
    after (from0 [] [0x00012345fffe0a6a]) (goes [] [(0x11fe, 0x45), (0x11ff, 0x23)] 1) = true ∧
    after (from0 [] [0x000001ffffff0a72]) (goes [] [(0x11ff, 0xff)] 1) = true := by decide

theorem test_step_V7_3 :
    after (from0 [] [0xfffffffefff80a7a]) (goes [] [(0x11f8, 0xfe), (0x11f9, 0xff), (0x11fa, 0xff), (0x11fb, 0xff), (0x11fc, 0xff), (0x11fd, 0xff), (0x11fe, 0xff), (0x11ff, 0xff)] 1) = true ∧
    after (from0 [] [0x000000000000a061]) (aborts [] [] .outOfBoundsMemoryAccess 0x1200) = true ∧
    after (from0 [] [0x00000000fffea061]) (aborts [] [] .outOfBoundsMemoryAccess 0x11fe) = true ∧
    after ({ from0 [] [0x00000000fffaa061] with mem := stackS }) (aborts [] stackS .misalignedAccess 0x11fa) = true ∧
    after ({ from0 [] [0x00000000fffaa061] with mem := stackS, params := { allowMisaligned := true } }) (goes [(0, 0x33445566)] stackS 1) = true ∧
    after (from0 [] [0x00000000fdffa071]) (aborts [] [] .outOfBoundsMemoryAccess 0xfff) = true := by decide

theorem test_step_V7_4 :
    after ({ from0 [] [0x00000000fe00a071] with mem := stackS }) (goes [(0, 0x5a)] stackS 1) = true ∧
    after (from0 [] [0x00000000ffff1071]) (aborts [] [] .outOfBoundsMemoryAccess 0xffffffffffffffff) = true ∧
    after (withRegion (from0 [(1, 0x2000)] [0x0000000000001079])) (goes [(0, 0x807060504030201), (1, 0x2000)] (withRegion State.reset).mem 1) = true ∧
    after (withRegion (from0 [(1, 0x2000)] [0x000000010000017a])) (aborts [(1, 0x2000)] (withRegion State.reset).mem .outOfBoundsMemoryAccess 0x2000) = true ∧
    after (withRegion (from0 [(1, 0x2000)] [0x00000000000c1079])) (aborts [(1, 0x2000)] (withRegion State.reset).mem .outOfBoundsMemoryAccess 0x200c) = true ∧
    after (from0 [] [0x0000000000000020]) (aborts [] [] .unsupportedAddressingMode 0x20) = true := by decide

theorem test_step_V7_5 :
    after (from0 [] [0x0000000000000051]) (aborts [] [] .unsupportedAddressingMode 0x51) = true ∧
    after (from0 [] [0x00000000fff81adb]) (aborts [] [] .unimplementedOpcode 0xfff81adb) = true ∧
    after (from0 [] [0x0000000000000000]) (aborts [] [] .unimplementedOpcode 0x0) = true ∧
    after (from0 [] [0x0000000000000060]) (aborts [] [] .unimplementedOpcode 0x60) = true ∧
    after (from0 [] [0x0000000000000002]) (aborts [] [] .unimplementedOpcode 0x2) = true := by decide

theorem test_step_V8_1 :
    after ({ from0 [(1, 0x7), (2, 0x3), (3, 0x9), (4, 0x8), (5, 0x6)] [0x0000000000000085] with helpers := [.any], helperRsp := [⟨21, []⟩] }) (goes [(0, 0x15), (1, 0x7), (2, 0x3), (3, 0x9), (4, 0x8), (5, 0x6)] [] 1) = true ∧
    after ({ from0 [(0, 0x4)] [0x0000000100000085] with helpers := [.any] }) (aborts [(0, 0x4)] [] .helperIndexOutOfRange 0x1) = true ∧
    after ({ from0 [] [0xffffffff00000085] with helpers := [.any] }) (aborts [] [] .helperIndexOutOfRange 0xffffffffffffffff) = true ∧
    after ({ from0 [] [0x0000000000001085] with helpers := [.any] }) (aborts [] [] .unimplementedOpcode 0x1085) = true ∧
    after ({ from0 [] [0x000000000000008d] with helpers := [.any] }) (aborts [] [] .unimplementedOpcode 0x8d) = true ∧
    after (from0 [] [0x0000000000000085]) (aborts [] [] .helperIndexOutOfRange 0x0) = true := by decide

theorem test_step_V9_1 :
    after (from0 [] [0x00000000000000e0]) (aborts [] [] .decodeFault 0xe0) = true ∧
    after (from0 [] [0x00000000000000fb]) (aborts [] [] .decodeFault 0xfb) = true ∧
    after (from0 [] [0x00000000000000e4]) (aborts [] [] .decodeFault 0xe4) = true ∧
    after (from0 [] [0xffffffffffffffff]) (aborts [] [] .decodeFault 0xffffffffffffffff) = true ∧
    after (from0 [] [0x00000000000000f5]) (aborts [] [] .decodeFault 0xf5) = true ∧
    after (from0 [] []) (aborts [] [] .pcOutOfRange 0x0) = true := by decide

/-- V9, the last row: the step the budget refuses is not counted. -/
theorem test_step_budget :
    step { from0 [] [0x00000001000000b7] with params := { fuel := some 0 } } =
      .next { from0 [] [0x00000001000000b7] with
        params := { fuel := some 0 }, status := .aborted, fault := .stepBudgetExhausted } := rfl

/-! The instructions with no row there, by hand from their rules: x[1] = 0xF0F0F0F080000013 against 5, off = 4; END on
0x1122334455667788. -/

theorem test_step_rules_1 :
    after (from0 [(1, 0xf0f0f0f080000013), (2, 5)] [0x000000000000214c]) (goes [(1, 0x80000017), (2, 5)] [] 1) = true ∧
    after (from0 [(1, 0xf0f0f0f080000013)] [0x0000000500000154]) (goes [(1, 0x1)] [] 1) = true ∧
    after (from0 [(1, 0xf0f0f0f080000013), (2, 5)] [0x000000000000217c]) (goes [(1, 0x4000000), (2, 5)] [] 1) = true ∧
    after (from0 [(1, 0xf0f0f0f080000013)] [0x00000005000001a4]) (goes [(1, 0x80000016)] [] 1) = true ∧
    after (from0 [(1, 0xf0f0f0f080000013), (2, 5)] [0x00000000000021cc]) (goes [(1, 0xfc000000), (2, 5)] [] 1) = true ∧
    after (from0 [(1, 0xf0f0f0f080000013)] [0x0000000500000117]) (goes [(1, 0xf0f0f0f08000000e)] [] 1) = true := by decide

theorem test_step_rules_2 :
    after (from0 [(1, 0xf0f0f0f080000013), (2, 5)] [0x000000000000214f]) (goes [(1, 0xf0f0f0f080000017), (2, 5)] [] 1) = true ∧
    after (from0 [(1, 0xf0f0f0f080000013), (2, 5)] [0x000000000000215f]) (goes [(1, 0x1), (2, 5)] [] 1) = true ∧
    after (from0 [(1, 0xf0f0f0f080000013), (2, 5)] [0x000000000000216f]) (goes [(1, 0x1e1e1e1000000260), (2, 5)] [] 1) = true ∧
    after (from0 [(1, 0xf0f0f0f080000013)] [0x0000000500000177]) (goes [(1, 0x787878784000000)] [] 1) = true ∧
    after (from0 [(1, 0xf0f0f0f080000013), (2, 5)] [0x000000000000219f]) (goes [(1, 0x2), (2, 5)] [] 1) = true ∧
    after (from0 [(1, 0xf0f0f0f080000013), (2, 5)] [0x00000000000021af]) (goes [(1, 0xf0f0f0f080000016), (2, 5)] [] 1) = true := by decide

theorem test_step_rules_3 :
    after (from0 [(1, 0x1122334455667788)] [0x00000020000001d7]) (goes [(1, 0x55667788)] [] 1) = true ∧
    after (from0 [(1, 0x1122334455667788)] [0x00000040000001d7]) (goes [(1, 0x1122334455667788)] [] 1) = true ∧
    after (from0 [(1, 0x1122334455667788)] [0x00000010000001df]) (goes [(1, 0x8877)] [] 1) = true ∧
    after (from0 [(1, 0x1122334455667788)] [0x00000020000001df]) (goes [(1, 0x88776655)] [] 1) = true ∧
    after (from0 [(1, 0xf0f0f0f080000013), (2, 5)] [0x000000000004211d]) (goes [(1, 0xf0f0f0f080000013), (2, 5)] [] 1) = true ∧
    after (from0 [(1, 0xf0f0f0f080000013), (2, 5)] [0x000000000004212d]) (goes [(1, 0xf0f0f0f080000013), (2, 5)] [] 5) = true := by decide

theorem test_step_rules_4 :
    after (from0 [(1, 0xf0f0f0f080000013)] [0x0000000500040135]) (goes [(1, 0xf0f0f0f080000013)] [] 5) = true ∧
    after (from0 [(1, 0xf0f0f0f080000013)] [0x0000000500040155]) (goes [(1, 0xf0f0f0f080000013)] [] 5) = true ∧
    after (from0 [(1, 0xf0f0f0f080000013), (2, 5)] [0x000000000004216d]) (goes [(1, 0xf0f0f0f080000013), (2, 5)] [] 1) = true ∧
    after (from0 [(1, 0xf0f0f0f080000013)] [0x0000000500040175]) (goes [(1, 0xf0f0f0f080000013)] [] 1) = true ∧
    after (from0 [(1, 0xf0f0f0f080000013)] [0x00000005000401a5]) (goes [(1, 0xf0f0f0f080000013)] [] 1) = true ∧
    after (from0 [(1, 0xf0f0f0f080000013), (2, 5)] [0x00000000000421bd]) (goes [(1, 0xf0f0f0f080000013), (2, 5)] [] 1) = true := by decide

theorem test_step_rules_5 :
    after (from0 [(1, 0xf0f0f0f080000013), (2, 5)] [0x00000000000421cd]) (goes [(1, 0xf0f0f0f080000013), (2, 5)] [] 5) = true ∧
    after (from0 [(1, 0xf0f0f0f080000013), (2, 5)] [0x00000000000421dd]) (goes [(1, 0xf0f0f0f080000013), (2, 5)] [] 5) = true ∧
    after (from0 [(1, 0xf0f0f0f080000013), (2, 5)] [0x000000000004211e]) (goes [(1, 0xf0f0f0f080000013), (2, 5)] [] 1) = true ∧
    after (from0 [(1, 0xf0f0f0f080000013)] [0x0000000500040126]) (goes [(1, 0xf0f0f0f080000013)] [] 5) = true ∧
    after (from0 [(1, 0xf0f0f0f080000013), (2, 5)] [0x000000000004213e]) (goes [(1, 0xf0f0f0f080000013), (2, 5)] [] 5) = true ∧
    after (from0 [(1, 0xf0f0f0f080000013), (2, 5)] [0x000000000004214e]) (goes [(1, 0xf0f0f0f080000013), (2, 5)] [] 5) = true := by decide

theorem test_step_rules_6 :
    after (from0 [(1, 0xf0f0f0f080000013), (2, 5)] [0x000000000004215e]) (goes [(1, 0xf0f0f0f080000013), (2, 5)] [] 5) = true ∧
    after (from0 [(1, 0xf0f0f0f080000013), (2, 5)] [0x000000000004216e]) (goes [(1, 0xf0f0f0f080000013), (2, 5)] [] 1) = true ∧
    after (from0 [(1, 0xf0f0f0f080000013), (2, 5)] [0x000000000004217e]) (goes [(1, 0xf0f0f0f080000013), (2, 5)] [] 1) = true ∧
    after (from0 [(1, 0xf0f0f0f080000013), (2, 5)] [0x00000000000421ae]) (goes [(1, 0xf0f0f0f080000013), (2, 5)] [] 1) = true ∧
    after (from0 [(1, 0xf0f0f0f080000013)] [0x00000005000401b6]) (goes [(1, 0xf0f0f0f080000013)] [] 1) = true ∧
    after (from0 [(1, 0xf0f0f0f080000013)] [0x00000005000401c6]) (goes [(1, 0xf0f0f0f080000013)] [] 5) = true := by decide

theorem test_step_rules_7 :
    after (from0 [(1, 0xf0f0f0f080000013), (2, 5)] [0x00000000000421de]) (goes [(1, 0xf0f0f0f080000013), (2, 5)] [] 5) = true := by decide

/-- Every opcode byte with no rule (R137, R188, R217, R218), and each unsupported mode in each class (R216). -/
theorem test_step_noRule :
    ([0x00, 0x08, 0x10, 0x60, 0x68, 0x70, 0x78, 0x01, 0x09, 0x11, 0x19, 0x02, 0x0a, 0x12, 0x1a, 0x03, 0x0b, 0x13, 0x1b,
      0x8c, 0x8f, 0x0d, 0x9d, 0x8d, 0x06, 0x0e, 0x86, 0x8e, 0x96, 0x9e, 0xc0, 0xc9, 0xd2, 0xdb].all fun op =>
        after (from0 [] [op]) (aborts [] [] .unimplementedOpcode op)) = true ∧
    ([0x20, 0x29, 0x32, 0x3b, 0x40, 0x49, 0x52, 0x5b, 0x80, 0x89, 0x92, 0x9b, 0xa0, 0xa9, 0xb2, 0xbb].all fun op =>
        after (from0 [] [op]) (aborts [] [] .unsupportedAddressingMode op)) = true := by decide

/-- The numbers of the run-status registers (R35, R240). -/
theorem test_codes : [Status.idle, .running, .terminated, .aborted].map (·.code) = [0, 1, 2, 3] ∧
    [TermCause.exit, .divideByZero].map (·.code) = [0, 1] ∧
    [FaultCode.none, .decodeFault, .unimplementedOpcode, .unsupportedAddressingMode, .helperIndexOutOfRange,
      .outOfBoundsMemoryAccess, .invalidOperand, .pcOutOfRange, .misalignedAccess, .stepBudgetExhausted].map (·.code) =
        [0, 1, 2, 3, 4, 5, 6, 7, 8, 9] := by decide

/-! ### The interface to the host -/

/-- `withFetchWord` puts the instruction where the next step runs it: EXIT from reset. -/
theorem test_withFetchWord_exit : step (State.reset.withFetchWord 8 0x95) =
    exec .exit (State.reset.withFetchWord 8 0x95).countStep := rfl

/-- The two words of LDDW, its second word's upper half in bits 127..96. -/
theorem test_withFetchWord_lddw :
    after (State.reset.withFetchWord 128 0x11223344000000005566778800000118)
      (fun t => t.reg 1 == 0x1122334455667788 && t.pc == 2) = true ∧
    decodeTableWord 128 0x11223344000000005566778800000118 = some (.lddw 1 0x1122334455667788) := by decide

/-- A start event with a two-word program, one read-only region next to the stack and one byte of it fixed twice. -/
def event : StartEvent where
  prog := [0x00000000000a00b7, 0x95]
  ctx := 0xabc
  helpers := [.any, .any]
  stackBase := 0x1000
  regions := [⟨0x1200, 16, false⟩]
  contents := [(0x1200, 1), (0x9999, 7), (0x1200, 2)]
  responses := []

/-- R270: what the start leaves, from Idle. A byte outside every region is not kept. -/
theorem test_start :
    (match step (State.idle.presentStart event) with
      | .next t => t.status == .running && t.reg 1 == 0xabc && t.reg 10 == 0x1200 && t.mem == [(0x1200, 2)] &&
          t.prog.length == 2 && t.nhelpers == 2 && t.startIn == none && t.draw == 1
      | _ => false) = true := by decide

/-- R41: refused while Running. R274: refused where two regions share one byte. -/
theorem test_start_refused :
    step (State.reset.presentStart event) = .refused .startWhileRunning ∧
    step (State.idle.presentStart { event with regions := [⟨0x11ff, 1, false⟩] }) = .refused .startBadRegions :=
  ⟨rfl, rfl⟩

/-- A core that waits for helper 0. -/
def waiting : State := { State.reset with helpers := [.any], helperReq := some ⟨0, 7, 3, 0, 0, 0⟩ }

/-- R231: a CALL with no answer asks; the waiting core takes no step; the answer completes it, and its write lands only
in a writable region (R232, log 11). -/
theorem test_call_wait :
    step { from0 [(1, 7), (2, 3)] [0x85] with helpers := [.any] } =
      .next { from0 [(1, 7), (2, 3)] [0x85] with
        helpers := [.any], steps := 1, helperReq := some ⟨0, 7, 3, 0, 0, 0⟩ } ∧
    step waiting = .fault .helperPending ∧
    (match step (waiting.deliver ⟨21, [(0x1000, 5), (0x2000, 6)]⟩) with
      | .next t => t.reg 0 == 21 && t.pc == 1 && t.mem == [(0x1000, 5)] && t.helperReq == none && t.steps == 0
      | _ => false) = true := ⟨rfl, rfl, by decide⟩

/-- A helper that multiplies 7 and 3 (R230's example) where the byte 0x1000 holds 5, and then writes 6 there. -/
def product : HelperSpec := .relation [⟨some 7, some 3, none, none, none, [(0x1000, 5)], some 21, some [(0x1000, 6)]⟩]

/-- A CALL of it, with an answer at the port. -/
def asking (r : HelperResponse) : State :=
  { from0 [(1, 7), (2, 3)] [0x85] with helpers := [product], mem := [(0x1000, 5), (0x1001, 0)], helperRsp := [r] }

/-- The core that waits for it, with the answers at the port. -/
def waitingFor (rs : List HelperResponse) : State :=
  { asking ⟨21, []⟩ with helperReq := some ⟨0, 7, 3, 0, 0, 0⟩, helperRsp := rs }

/-- R232: an answer the relation allows completes the CALL, also where it writes the byte twice or writes elsewhere too; the
core waits for another result, for another byte, and for other arguments, and refuses such an answer (log 12). -/
theorem test_call_relation :
    ([⟨21, [(0x1000, 6)]⟩, ⟨21, [(0x1000, 9), (0x2000, 1), (0x1000, 6)]⟩].all fun r =>
      after (asking r) fun t => t.reg 0 == 21 && t.mem == [(0x1000, 6), (0x1001, 0)] && t.helperReq == none) = true ∧
    ([⟨20, [(0x1000, 6)]⟩, ⟨21, []⟩, ⟨21, [(0x1000, 6), (0x1001, 1)]⟩].all fun r =>
      after (asking r) fun t => t.helperReq == some ⟨0, 7, 3, 0, 0, 0⟩ && t.helperRsp == [r]) = true ∧
    after ((asking ⟨21, [(0x1000, 6)]⟩).setReg 2 4) (fun t => t.helperReq == some ⟨0, 7, 4, 0, 0, 0⟩) = true ∧
    step (waitingFor [⟨20, [(0x1000, 6)]⟩]) = .refused .helperAnswerForbidden := ⟨by decide, by decide, by decide, rfl⟩

/-! ### Each statement's hypotheses can be met

One theorem for each statement with hypotheses, a conjunct for each clause; the values are at the edges the rules name. -/

theorem readable_of {s : State} {a n : Nat} (h : s.admitsRead a n = true) : Readable s a n := (s.admitsRead_iff a n).1 h
theorem not_readable_of {s : State} {a n : Nat} (h : s.admitsRead a n = false) : ¬Readable s a n := fun hr => by
  rw [(s.admitsRead_iff a n).2 hr] at h; exact Bool.noConfusion h
theorem writable_of {s : State} {a n : Nat} (h : s.admitsWrite a n = true) : Writable s a n := (s.admitsWrite_iff a n).1 h
theorem not_writable_of {s : State} {a n : Nat} (h : s.admitsWrite a n = false) : ¬Writable s a n := fun hr => by
  rw [(s.admitsWrite_iff a n).2 hr] at h; exact Bool.noConfusion h

/-- The hypothesis of every `DecodesAs`: a word with those fields (the families' opcode bytes at both ends of the fields). -/
theorem witness_Fields : Fields 0xfffffff900000304 0x04 3 0 0 (-7) ∧ Fields 0x00000000000092bf 0xbf 2 9 0 0 ∧
    Fields 0x00000064fffe0465 0x65 4 0 (-2) 100 ∧ Fields 0x00000000012c61ae 0xae 1 6 300 0 ∧
    Fields 0x000000008000a069 0x69 0 10 (-32768) 0 ∧ Fields 0x000000ff7fff0a72 0x72 10 0 32767 255 ∧
    Fields 0x00000000fff8fa7b 0x7b 10 15 (-8) 0 ∧ Fields 0x0000001000000fdc 0xdc 15 0 0 16 ∧
    Fields 0xffffffff00000085 0x85 0 0 0 (-1) ∧ Fields 0x95 0x95 0 0 0 0 ∧ Fields 0x00000000ffff0005 0x05 0 0 (-1) 0 := by
  refine ⟨?_, ?_, ?_, ?_, ?_, ?_, ?_, ?_, ?_, ?_, ?_⟩ <;> exact ⟨by decide, by decide, by decide, by decide, by decide⟩

/-- The hypothesis of every `AbortsAs`: a word with that opcode byte. -/
theorem witness_AbortsAs : bitsOf 0x218c 0 8 = 0x8c ∧ bitsOf 0xffffffffffffff0d 0 8 = 0x0d ∧ bitsOf 0x00 0 8 = 0x00 ∧
    bitsOf 0x1b 0 8 = 0x1b := by decide

/-- R137 and R188: op codes 14 and 15 of the four ALU and jump classes. -/
theorem witness_NegNegatesAndNegXAborts :
    (bitsOf 0xe4 0 3 = 4 ∧ 14 ≤ bitsOf 0xe4 4 4) ∧ (bitsOf 0xff 0 3 = 7 ∧ 14 ≤ bitsOf 0xff 4 4) := by decide
theorem witness_JumpEncodingsWithNoRuleAbort :
    (bitsOf 0xe5 0 3 = 5 ∧ 14 ≤ bitsOf 0xe5 4 4) ∧ (bitsOf 0xf6 0 3 = 6 ∧ 14 ≤ bitsOf 0xf6 4 4) := by decide

/-- A divisor that is 0 at 32 bits but not at 64, the immediate 0, and the divisor 1, on one state. -/
theorem witness_DivModUnsignedAndZeroTerminates :
    ((from0 [(2, 0x100000000)] []).reg 2).toNat % 2 ^ 32 = 0 ∧ ((from0 [(2, 0x100000000)] []).reg 2).toNat ≠ 0 ∧
    sextNat (0 : BitVec 32).toNat = 0 ∧ (1 : BitVec 32).toNat ≠ 0 ∧ sextNat (1 : BitVec 32).toNat ≠ 0 ∧
    ((from0 [(2, 0x100000000)] []).reg 3).toNat = 0 := by decide

/-- A class-4 ADD on a running core that goes on running. -/
theorem witness_Class4ClearsUpperHalf : masksUpperHalf (.add32K 1 5) = true ∧ destOf (.add32K 1 5) = some 1 ∧
    State.reset.status = .running ∧ ∃ t, exec (.add32K 1 5) State.reset = .next t ∧ t.status = .running :=
  ⟨rfl, rfl, rfl, _, rfl, rfl⟩

/-- A JEQ that is taken and one that is not: K sign-extends, and 32 bits see less than 64. -/
theorem witness_Jumps : ((from0 [(1, 5)] []).reg 1).toNat = sextNat (5 : BitVec 32).toNat ∧
    ((from0 [(1, 0x100000005)] []).reg 1).toNat ≠ sextNat (5 : BitVec 32).toNat ∧
    ((from0 [(1, 0x100000005)] []).reg 1).toNat % 2 ^ 32 = (5 : BitVec 32).toNat ∧
    signedOf 64 ((from0 [(1, 0x8000000000000000)] []).reg 1).toNat < signedOf 64 (sextNat (0 : BitVec 32).toNat) := by
  decide

theorem ready_of {s : State} (h1 : s.status = .running) (h2 : s.startIn = none) (h3 : s.helperReq = none)
    (h4 : s.params.fuel = none) : Ready s := ⟨h1, h2, h3, fun f h => by rw [h4] at h; cases h⟩

/-- LDDW with both words, and LDDW in the last slot. -/
theorem witness_LddwLoadsSixtyFourBits :
    (bitsOf 0x5566778800000118 0 8 = 0x18 ∧ bitsOf 0x5566778800000118 8 4 = (1 : Reg).val) ∧
    (let s := { from0 [] [0x95, 0x118] with pc := 1 }
     Ready s ∧ 0 ≤ s.pc ∧ s.prog[s.pc.toNat]? = some 0x118 ∧ bitsOf 0x118 0 8 = 0x18 ∧ s.pc + 1 = s.prog.length) :=
  ⟨by decide, ready_of rfl rfl rfl rfl, by decide, rfl, by decide, by decide⟩

/-- The three clauses of a load: the last word of the stack, one byte further, and a misaligned one inside; with
ALLOW_MISALIGNED the last is admitted. -/
theorem witness_LoadsReadMemory :
    (Readable State.reset (eaOf State.reset 10 (-4)) 4 ∧ AlignedOrAllowed State.reset (eaOf State.reset 10 (-4)) 4) ∧
    (Readable State.reset (eaOf State.reset 10 (-512)) 8 ∧ AlignedOrAllowed State.reset (eaOf State.reset 10 (-512)) 8) ∧
    ¬Readable State.reset (eaOf State.reset 10 (-3)) 4 ∧ ¬Readable State.reset (eaOf State.reset 10 (-513)) 1 ∧
    (Readable State.reset (eaOf State.reset 10 (-6)) 4 ∧ ¬AlignedOrAllowed State.reset (eaOf State.reset 10 (-6)) 4) ∧
    (let s := { State.reset with params := { allowMisaligned := true } }
     Readable s (eaOf s 10 (-6)) 4 ∧ AlignedOrAllowed s (eaOf s 10 (-6)) 4) :=
  ⟨⟨readable_of (by decide), .inl (by decide)⟩, ⟨readable_of (by decide), .inl (by decide)⟩, not_readable_of (by decide),
    not_readable_of (by decide), ⟨readable_of (by decide), fun h => by rcases h with h | h <;> exact absurd h (by decide)⟩,
    readable_of (by decide), .inr rfl⟩

/-- The same for stores, with a read-only region: it may be read and not written. -/
theorem witness_Stores :
    (Writable State.reset (eaOf State.reset 10 (-8)) 8 ∧ AlignedOrAllowed State.reset (eaOf State.reset 10 (-8)) 8) ∧
    ¬Writable State.reset (eaOf State.reset 10 (-7)) 8 ∧
    (Writable State.reset (eaOf State.reset 10 (-9)) 8 ∧ ¬AlignedOrAllowed State.reset (eaOf State.reset 10 (-9)) 8) ∧
    (let s := withRegion (from0 [(1, 0x2000)] [])
     Readable s (eaOf s 1 0) 8 ∧ ¬Writable s (eaOf s 1 0) 8) :=
  ⟨⟨writable_of (by decide), .inl (by decide)⟩, not_writable_of (by decide),
    ⟨writable_of (by decide), fun h => by rcases h with h | h <;> exact absurd h (by decide)⟩,
    readable_of (by decide), not_writable_of (by decide)⟩

/-- A mode in the first and the last memory class. -/
theorem witness_ModeRule : (bitsOf 0x20 0 3 < 4 ∧ bitsOf 0x20 5 3 = 1) ∧ (bitsOf 0x53 0 3 < 4 ∧ bitsOf 0x53 5 3 = 2) ∧
    (bitsOf 0x9b 0 3 < 4 ∧ bitsOf 0x9b 5 3 = 4) ∧ (bitsOf 0xa1 0 3 < 4 ∧ bitsOf 0xa1 5 3 = 5) ∧
    (bitsOf 0xdb 0 3 < 4 ∧ bitsOf 0xdb 5 3 = 6) := by decide

/-- STXDW, STB and STW that store and go on, on a little-endian core, and STXDW on a big-endian one; the loads of the same
and of a narrower width. -/
theorem witness_LoadReturnsLastStore :
    let big := { State.reset with params := { byteOrder := .big } }
    (State.reset.status = .running ∧ State.reset.params.byteOrder = .little) ∧ big.status = .running ∧
    (8, Instr.ldxdw) ∈ loadsByWidth ∧ (1, Instr.ldxb) ∈ loadsByWidth ∧
    (∃ t, exec (.stxdw 10 (-8) 10) State.reset = .next t ∧ t.status = .running) ∧
    (∃ t, exec (.stb 10 (-1) 255) State.reset = .next t ∧ t.status = .running) ∧
    (∃ t, exec (.stw 10 (-4) 1) State.reset = .next t ∧ t.status = .running) ∧
    (∃ t, exec (.stxdw 10 (-8) 10) big = .next t ∧ t.status = .running) :=
  ⟨⟨rfl, rfl⟩, rfl, by simp [loadsByWidth], by simp [loadsByWidth], ⟨_, rfl, rfl⟩, ⟨_, rfl, rfl⟩, ⟨_, rfl, rfl⟩, _, rfl, rfl⟩

theorem allows_of {s : State} {q : HelperRequest} {r : HelperResponse} (h : s.allowsAnswer q r = true) :
    HelperAllows s q r := (s.allowsAnswer_iff q r).1 h
theorem not_allows_of {s : State} {q : HelperRequest} {r : HelperResponse} (h : s.allowsAnswer q r = false) :
    ¬HelperAllows s q r := fun ha => by rw [(s.allowsAnswer_iff q r).2 ha] at h; exact Bool.noConfusion h

/-- CALL of the last helper with an answer ready, of a helper with no relation and of one with a relation; a byte the
answer may write and one it may not. -/
theorem witness_CallTakesHelperAnswer :
    (let s := { waiting with helperReq := none, helperRsp := [⟨21, []⟩] }
     signedOf 32 (0 : BitVec 32).toNat = (0 : Nat) ∧ 0 < s.nhelpers ∧ s.helperRsp = ⟨21, []⟩ :: [] ∧
      HelperAllows s (requestOf 0 s) ⟨21, []⟩) ∧
    (let s := asking ⟨21, [(0x1000, 6)]⟩
     0 < s.nhelpers ∧ s.helperRsp = ⟨21, [(0x1000, 6)]⟩ :: [] ∧
      HelperAllows s (requestOf 0 s) ⟨21, [(0x1000, 6)]⟩ ∧ Writable s 0x11ff 1 ∧ ¬Writable s 0x1200 1) :=
  ⟨⟨by decide, by decide, rfl, allows_of (by decide)⟩, by decide, rfl, allows_of (by decide), writable_of (by decide),
    not_writable_of (by decide)⟩

/-- A CALL with no answer and one with a forbidden answer; a waiting core with none, with a forbidden one, and with one the
helper may give. -/
theorem witness_CallWaitsForItsHelper :
    (signedOf 32 (0 : BitVec 32).toNat = (0 : Nat) ∧ 0 < waiting.nhelpers ∧
      (∀ r rest, waiting.helperRsp = r :: rest → ¬HelperAllows waiting (requestOf 0 waiting) r)) ∧
    (let s := asking ⟨20, []⟩
     0 < s.nhelpers ∧ ∀ r rest, s.helperRsp = r :: rest → ¬HelperAllows s (requestOf 0 s) r) ∧
    (let s := waitingFor []
     s.status = .running ∧ s.startIn = none ∧ s.helperReq = some ⟨0, 7, 3, 0, 0, 0⟩ ∧ s.helperRsp = []) ∧
    ((waitingFor [⟨20, []⟩]).helperRsp = ⟨20, []⟩ :: [] ∧
      ¬HelperAllows (waitingFor [⟨20, []⟩]) ⟨0, 7, 3, 0, 0, 0⟩ ⟨20, []⟩) ∧
    ((waitingFor [⟨21, [(0x1000, 6)]⟩]).helperRsp = ⟨21, [(0x1000, 6)]⟩ :: [] ∧
      HelperAllows (waitingFor [⟨21, [(0x1000, 6)]⟩]) ⟨0, 7, 3, 0, 0, 0⟩ ⟨21, [(0x1000, 6)]⟩) := by
  refine ⟨⟨by decide, by decide, fun r rest h => by cases h⟩, ⟨by decide, fun r rest h => ?_⟩, by decide,
    ⟨rfl, not_allows_of (by decide)⟩, rfl, allows_of (by decide)⟩
  cases h
  exact not_allows_of (by decide)

/-- The indices at the edges of `0 .. NHELPERS - 1`. -/
theorem witness_CallChecksHelperIndex :
    ¬(0 ≤ signedOf 32 (-1 : BitVec 32).toNat ∧ signedOf 32 (-1 : BitVec 32).toNat < waiting.nhelpers) ∧
    ¬(0 ≤ signedOf 32 (1 : BitVec 32).toNat ∧ signedOf 32 (1 : BitVec 32).toNat < waiting.nhelpers) ∧
    (0 ≤ signedOf 32 (0 : BitVec 32).toNat ∧ signedOf 32 (0 : BitVec 32).toNat < waiting.nhelpers) := by decide

theorem witness_CallWithSourceRegisterAborts : (bitsOf 0x1085 0 8 = 0x85 ∧ bitsOf 0x1085 12 4 ≠ 0) ∧
    (bitsOf 0xf085 0 8 = 0x85 ∧ bitsOf 0xf085 12 4 ≠ 0) := by decide

/-- The decode faults at both ends of 0xe0 to 0xff, and the opcode byte below them. -/
theorem witness_DecodeFaultsAreExactlyE0ToFF : (bitsOf 0xe0 0 3 < 4 ∧ bitsOf 0xe0 5 3 = 7) ∧
    (4 ≤ bitsOf 0xff 0 3 ∧ 14 ≤ bitsOf 0xff 4 4) ∧ bitsOf 0xdf 0 8 < 0xe0 := by decide

theorem witness_OnlyOpcode18TakesTwoSlots : bitsOf 0x19 0 8 ≠ 0x18 ∧ bitsOf 0xfffffffffffff018 0 8 = 0x18 ∧
    bitsOf 0x1122334400000000 32 32 = bitsOf 0x11223344ffffffff 32 32 := by decide

theorem witness_DecoderIsTotalAndWellFormed : decode [0x95] = .ok .exit := by decide

/-- A well-formed term of each kind of check. -/
theorem witness_DecodeInvertsEncode : (Instr.lddw 15 0xffffffffffffffff).wellFormed = true ∧
    (Instr.endWidthD4 0x00000008000001d4).wellFormed = true ∧ (Instr.callSrc8 0x8085).wellFormed = true ∧
    (Instr.faultMode7 0xfb).wellFormed = true ∧ (Instr.noRule00 0xffffffffffffff00).wellFormed = true := by decide

/-- EXIT in the last slot of a Ready core. -/
theorem witness_StepRunsTheDecodedInstruction :
    let s := { from0 [] [0x118, 0x95] with pc := 1 }
    Ready s ∧ 0 ≤ s.pc ∧ decode (s.prog.drop s.pc.toNat) = .ok .exit :=
  ⟨ready_of rfl rfl rfl rfl, by decide, by decide⟩

/-- The pc one below the program, one past it, and on a last slot that needs a second. -/
theorem witness_FetchOutsideProgramAborts :
    (let s := { from0 [] [0x95] with pc := -1 }
     Ready s ∧ s.pc < 0) ∧
    (let s := { from0 [] [0x95] with pc := 1 }
     Ready s ∧ s.prog.length ≤ s.pc) ∧
    (let s := from0 [] [0x118]
     Ready s ∧ 0 ≤ s.pc ∧ s.prog[s.pc.toNat]? = some 0x118 ∧ bitsOf 0x118 0 8 = 0x18 ∧ s.pc + 1 = s.prog.length) :=
  ⟨⟨ready_of rfl rfl rfl rfl, by decide⟩, ⟨ready_of rfl rfl rfl rfl, by decide⟩, ready_of rfl rfl rfl rfl, by decide, rfl,
    by decide, by decide⟩

/-- A budget of 3: spent at STEPS = 3, not at STEPS = 2. -/
theorem witness_StepBudgetLimitsSteps :
    (let s := { from0 [] [0x95] with params := { fuel := some 3 }, steps := 3 }
     s.status = .running ∧ s.startIn = none ∧ s.helperReq = none ∧ s.params.fuel = some 3 ∧ 3 ≤ s.steps) ∧
    (let s := { from0 [] [0x95] with params := { fuel := some 3 }, steps := 2 }
     Ready s ∧ ∃ t, step s = .next t) :=
  ⟨by decide, ⟨rfl, rfl, rfl, fun f h => by cases h; decide⟩, _, rfl⟩

/-- A step that aborts: a word with no rule. -/
theorem witness_FaultsArePrecise : ∃ t, (from0 [] [0x00]).status = .running ∧ step (from0 [] [0x00]) = .next t ∧
    t.status = .aborted := ⟨_, rfl, rfl, rfl⟩

/-- EXIT and a division by zero each end a running core's run, by exec and by a step. -/
theorem witness_OnlyExitAndDivisionTerminate : State.reset.status = .running ∧
    (∃ t, exec .exit State.reset = .next t ∧ t.status = .terminated) ∧
    (∃ t, exec (.divK 1 0) State.reset = .next t ∧ t.status = .terminated) ∧
    ((from0 [] [0x95]).status = .running ∧ ∃ t, step (from0 [] [0x95]) = .next t ∧ t.status = .terminated) ∧
    (∃ t, step (from0 [] [0x137]) = .next t ∧ t.status = .terminated) :=
  ⟨rfl, ⟨_, rfl, rfl⟩, ⟨_, rfl, rfl⟩, ⟨rfl, _, rfl, rfl⟩, _, rfl, rfl⟩

theorem witness_OnlyTheDestinationIsWritten : (∃ t, exec (.addK 3 1) State.reset = .next t) ∧
    destOf (.addK 3 1) ≠ some 4 ∧ (∃ t, exec .exit State.reset = .next t) ∧ destOf .exit ≠ some 0 :=
  ⟨⟨_, rfl⟩, by decide, ⟨_, rfl⟩, by decide⟩

theorem witness_RunStatusIsNotRead : ∃ t, exec (.jeqK 0 0 1) State.reset = .next t := ⟨_, rfl⟩

theorem witness_ProgramAndHelperTableAreReadOnly : (from0 [] [0x95]).startIn = none ∧
    ∃ t, step (from0 [] [0x95]) = .next t := ⟨rfl, _, rfl⟩

/-- A store next to a byte outside the stack. -/
theorem witness_OnlyWritableBytesChange :
    let s := from0 [] [0xfffffffefff80a7a]
    s.startIn = none ∧ (∃ t, step s = .next t) ∧ ¬Writable s 0x1200 1 := ⟨rfl, ⟨_, rfl⟩, not_writable_of (by decide)⟩

/-- Two states that differ in a byte just past the stack, and a step of the first. -/
theorem witness_BytesOutsideRegionsAreInvisible :
    SameVisible (from0 [] [0x95]) { from0 [] [0x95] with mem := [(0x1200, 1)] } ∧ (from0 [] [0x95]).startIn = none ∧
      ∃ t, step (from0 [] [0x95]) = .next t := by
  refine ⟨⟨rfl, rfl, ⟨rfl, rfl, rfl, rfl, rfl, rfl, rfl⟩, rfl, rfl, rfl, rfl, rfl, ⟨rfl, rfl, rfl⟩, fun a ha => ?_⟩, rfl, _, rfl⟩
  have : a ≠ 0x1200 := by rintro rfl; exact not_readable_of (by decide) ha
  show ((Memory.find [(0x1200, 1)] a).getD _) = _
  simp only [Memory.find, if_neg this]
  rfl

/-- A core in the middle of a run: one known byte of the stack, a budget, a request of the last helper. -/
def midRun : State :=
  { from0 [(3, 9)] [0x85] with
    mem := [(0x11ff, 3)], helpers := [.any], steps := 4, params := { fuel := some 4 },
    helperReq := some ⟨0, 0, 0, 0, 0, 0⟩, helperRsp := [⟨1, []⟩] }

theorem witness_StepKeepsInvariant : Inv midRun ∧ ∃ t, step midRun = .next t := by
  refine ⟨⟨by decide, fun c hc => ?_, ⟨by decide, by decide⟩, by decide, by decide, by decide, by decide, fun q h => ?_,
    fun f h => ?_⟩, _, rfl⟩
  · cases List.mem_singleton.1 hc; exact readable_of (by decide)
  · cases h; decide
  · cases h; decide

theorem witness_NoStepUnlessRunning : State.idle.startIn = none ∧ State.idle.status ≠ .running := by decide

/-- The three clauses: a running core; touching regions that end at 2^64; two regions that share one byte, and a region
that wraps by one. -/
theorem witness_StartIsAcceptedOnlyWhenNotRunning :
    (State.reset.presentStart event).startIn = some event ∧ (State.reset.presentStart event).status = .running ∧
    (State.idle.presentStart event).status ≠ .running ∧ LegalLayout (event.layout 512) ∧
    LegalLayout (StartEvent.layout { event with regions := [⟨0x1200, 2 ^ 64 - 0x1200, true⟩] } 512) ∧
    ¬LegalLayout (StartEvent.layout { event with regions := [⟨0x11ff, 1, false⟩] } 512) ∧
    ¬LegalLayout (StartEvent.layout { event with regions := [⟨0x1200, 2 ^ 64 - 0x11ff, true⟩] } 512) :=
  ⟨rfl, rfl, by decide, (layoutOk_iff _).1 (by decide), (layoutOk_iff _).1 (by decide),
    fun h => absurd ((layoutOk_iff _).2 h) (by decide), fun h => absurd ((layoutOk_iff _).2 h) (by decide)⟩

/-- The next state of an accepted start, with a byte it fixes and a byte it leaves open. -/
theorem witness_StartInitializesTheInvocation : (State.idle.presentStart event).startIn = some event ∧
    ∃ t, step (State.idle.presentStart event) = .next t ∧ Readable t 0x1200 1 ∧ Readable t 0x1000 1 :=
  ⟨rfl, _, rfl, readable_of (by decide), readable_of (by decide)⟩

theorem witness_EmptyProgramAbortsAtOnce :
    let e := { event with prog := [] }
    let s := State.idle.presentStart e
    s.startIn = some e ∧ s.status ≠ .running ∧ LegalLayout (e.layout s.params.stackSize) ∧ e.prog = [] ∧
      s.params.fuel ≠ some 0 := ⟨rfl, by decide, (layoutOk_iff _).1 (by decide), rfl, by decide⟩

/-- A CALL of a helper with a relation that completes at once, and one that completes after waiting. -/
theorem witness_CompletedCallsObeyTheRelation :
    (let s := asking ⟨21, [(0x1000, 6)]⟩
     signedOf 32 (0 : BitVec 32).toNat = (0 : Nat) ∧ (∃ rows, s.helpers[0]? = some (.relation rows)) ∧
      ∃ t, exec (.call 0) s = .next t ∧ t.helperReq = none) ∧
    (let s := waitingFor [⟨21, [(0x1000, 6)]⟩]
     s.status = .running ∧ s.startIn = none ∧ s.helperReq = some ⟨0, 7, 3, 0, 0, 0⟩ ∧
      (∃ rows, s.helpers[0]? = some (.relation rows)) ∧ ∃ t, step s = .next t) :=
  ⟨⟨by decide, ⟨_, rfl⟩, _, rfl, rfl⟩, rfl, rfl, rfl, ⟨_, rfl⟩, _, rfl⟩

end Sys2Proof.Machine
end

namespace Sys2Proof.Machine

/-! ## The state and the step: what every step keeps, what a fetch finds, what an instruction reads and writes -/

/-! ### The invariant, operation by operation -/

section
variable {s t : State}

theorem Inv.setReg (h : Inv s) (dst : Reg) (v : Word) : Inv (s.setReg dst v) := { h with }

theorem Inv.setPc (h : Inv s) (p : Int) : Inv (s.setPc p) := { h with }

theorem Inv.advance (h : Inv s) (n : Nat) : Inv (s.advance n) := h.setPc _

/-- A step that the budget admits may be counted (R262). -/
theorem Inv.countStep (h : Inv s) (hb : s.budgetSpent = false) : Inv s.countStep :=
  { h with
    budget := fun f hf => by
      by_contra hlt
      have : s.budgetSpent = true := s.budgetSpent_iff.2 ⟨f, hf, by simpa using hlt⟩
      simp [hb] at this }

/-- An abort fills the fault record as STATUS leaves Running (R241); TERM_CAUSE is still clear. -/
theorem Inv.abort (h : Inv s) (hr : s.status = .running) (hq : s.helperReq = none) {f : FaultCode} (hf : f ≠ .none)
    (info : Word) : Inv (s.abort f info) :=
  { h with
    faultIffAborted := iff_of_true hf rfl
    recordClear := fun hn => absurd rfl hn
    resultClear := fun _ => ⟨rfl, (h.resultClear (by simp [hr])).2⟩
    requestRunning := fun hn => absurd hq hn }

/-- A termination leaves FAULT_PC alone (R244), which is clear while Running. -/
theorem Inv.finish (h : Inv s) (hr : s.status = .running) (hq : s.helperReq = none) (v : Word) (c : TermCause) :
    Inv (s.finish v c) :=
  { h with
    faultIffAborted := iff_of_false (absurd rfl) (by simp)
    recordClear := fun _ => ⟨(h.recordClear (by simp [hr])).1, rfl⟩
    resultClear := fun hn => absurd rfl hn
    requestRunning := fun hn => absurd hq hn }

/-- A store lists only bytes of the range it was admitted for (R55). -/
theorem Inv.memWrite (h : Inv s) {a n : Nat} (hw : Writable s a n) (v : Word) : Inv (s.memWrite a n v) :=
  { h with
    memWf := Memory.wf_writeBytes _ _ _ h.memWf
    memInside := fun c hc => by
      rcases Memory.mem_writeBytes _ _ _ _ hc with ⟨hlo, hhi⟩ | hc
      · exact (hw.byte hlo (by simpa using hhi)).readable
      · exact h.memInside c hc }

/-- A helper's answer lists only writable bytes (R232) and ends the request. -/
theorem Inv.answer (h : Inv s) (r : HelperResponse) (rest : List HelperResponse) :
    Inv (finishCall r { s with helperRsp := rest }) :=
  { h with
    memWf := State.helperWrites_wf _ _ _ h.memWf
    memInside := fun c hc => by
      rcases State.helperWrites_mem _ _ _ _ hc with hw | hc
      · exact ((State.admitsWrite_iff _ _ _).1 hw).readable
      · exact h.memInside c hc
    requestRunning := absurd rfl
    requestLegal := nofun }

/-- A CALL that waits asks for a helper of the table (R233). -/
theorem Inv.request (h : Inv s) (hr : s.status = .running) {k : Nat} (hk : k < s.nhelpers) :
    Inv { s with helperReq := some (helperRequest k s) } :=
  { h with
    requestRunning := fun _ => hr
    requestLegal := fun q hq => by cases hq; exact hk }

/-- Everything an instruction can do keeps the invariant. -/
theorem Inv.of_shape (h : Inv s) (hr : s.status = .running) (hq : s.helperReq = none) (hs : Shape s t) : Inv t := by
  cases hs with
  | reg dst v n => exact (h.setReg dst v).advance n
  | jump p => exact h.setPc p
  | abort f info hf => exact h.abort hr hq hf info
  | finish v c => exact h.finish hr hq v c
  | store a n v hw => exact (h.memWrite hw v).advance 1
  | answer k r rest => exact h.answer r rest
  | wait k hk => exact h.request hr hk

/-- A legal start establishes the invariant, whatever the state before it (R270, R274). -/
theorem inv_started {e : StartEvent} (hl : LegalLayout (e.layout s.params.stackSize)) : Inv (started e s) where
  memWf := fillMemory_wf _ _ _ rfl
  memInside := fun c hc => by
    rcases fillMemory_mem _ _ _ _ hc with hc | hc
    · exact (State.admitsRead_iff (started e s) c.1 1).1 hc
    · cases hc
  layout := hl
  faultIffAborted := by simp [started]
  recordClear := fun _ => ⟨rfl, rfl⟩
  resultClear := fun _ => ⟨rfl, rfl⟩
  requestRunning := fun _ => rfl
  requestLegal := nofun
  budget := fun f _ => f.zero_le

theorem Inv.of_step (h : Inv s) (hs : step s = .next t) : Inv t := by
  rcases step_cases hs with ⟨e, -, -, hl, rfl⟩ |
    ⟨-, hr, ⟨q, r, rest, -, -, -, rfl⟩ | ⟨hq, ⟨-, rfl⟩ | ⟨hb, ⟨p, -, rfl⟩ | ⟨i, -, hi⟩⟩⟩⟩
  · exact inv_started ((layoutOk_iff _).1 hl)
  · exact h.answer r rest
  · exact h.abort hr hq (by decide) _
  · exact (h.countStep hb).abort hr hq (by decide) _
  · exact (h.countStep hb).of_shape hr hq (exec_shape hi)

end

/-- Settles O40, from what each operation keeps, over the cases of a step. -/
theorem stepKeepsInvariant : Obligations.StepKeepsInvariant := fun _ _ h hs => h.of_step hs

/-- Settles O41. -/
theorem resetSatisfiesInvariant : Obligations.ResetSatisfiesInvariant where
  memWf := rfl
  memInside := nofun
  layout := (layoutOk_iff _).1 (by decide)
  faultIffAborted := by decide
  recordClear := fun _ => ⟨rfl, rfl⟩
  resultClear := fun _ => ⟨rfl, rfl⟩
  requestRunning := fun _ => rfl
  requestLegal := nofun
  budget := nofun

/-! ### Fetching (R31, R33) -/

theorem State.slot_of_nonneg (s : State) {p : Int} (h : 0 ≤ p) : s.slot p = s.prog[p.toNat]? := if_pos h

theorem State.slot_eq_none_iff (s : State) (p : Int) : s.slot p = none ↔ p < 0 ∨ s.prog.length ≤ p := by
  unfold State.slot
  split
  · rw [List.getElem?_eq_none_iff]; omega
  · simp; omega

/-- The decoder looks at no word after the second (R84). -/
theorem decode_cons_head? (w : Word) (rest : List Word) : decode (w :: rest.head?.toList) = decode (w :: rest) := by
  cases rest <;> rfl

/-- Inside the program, a fetch decodes the words from the pc on. -/
theorem State.fetch_eq_instr {s : State} {i : Instr} (h0 : 0 ≤ s.pc) (hd : decode (s.prog.drop s.pc.toNat) = .ok i) :
    s.fetch = .instr i := by
  have hfirst : s.slot s.pc = (s.prog.drop s.pc.toNat).head? := by rw [s.slot_of_nonneg h0, List.head?_drop]
  have hsecond : s.slot (s.pc + 1) = (s.prog.drop s.pc.toNat).tail.head? := by
    rw [s.slot_of_nonneg (by omega), List.tail_drop, List.head?_drop, Int.toNat_add h0 (by decide)]
    rfl
  rw [State.fetch, hfirst, hsecond]
  cases hl : s.prog.drop s.pc.toNat with
  | nil => rw [hl] at hd; cases hd
  | cons w rest =>
    rw [hl, ← decode_cons_head?] at hd
    simp [hd]

/-- A pc outside the program has no slot to fetch. -/
theorem State.fetch_outside {s : State} (h : s.pc < 0 ∨ s.prog.length ≤ s.pc) : s.fetch = .outside s.pc := by
  rw [State.fetch, (s.slot_eq_none_iff s.pc).2 h]

/-- A wide-immediate load in the last slot has no second slot. -/
theorem State.fetch_wide_lastSlot {s : State} {w : Word} (h0 : 0 ≤ s.pc) (hw : s.prog[s.pc.toNat]? = some w)
    (hop : opcodeByte w = 0x18) (hlast : s.pc + 1 = s.prog.length) : s.fetch = .outside (s.pc + 1) := by
  have hsecond : s.slot (s.pc + 1) = none := (s.slot_eq_none_iff _).2 (.inr hlast.ge)
  rw [State.fetch, s.slot_of_nonneg h0, hw, hsecond]
  simp [decode_wide_alone hop]

/-- A step of a Ready core that fetches outside the program aborts with the slot index. -/
theorem Ready.step_outside {s : State} {p : Int} (h : Ready s) (hf : s.countStep.fetch = .outside p) :
    ∃ t, step s = .next t ∧ AbortedFrom .pcOutOfRange (p % 2 ^ 64).toNat (Counted s) t := by
  refine ⟨s.countStep.abort .pcOutOfRange (BitVec.ofInt 64 p), by rw [step_ready h, hf]; rfl, ?_⟩
  have hp : (BitVec.ofInt 64 p).toNat = (p % 2 ^ 64).toNat := BitVec.toNat_ofInt p
  exact hp ▸ abortedFrom_abort _ _ s.countStep

/-- Settles O30. -/
theorem stepRunsTheDecodedInstruction : Obligations.StepRunsTheDecodedInstruction := by
  intro s i hready h0 hd
  rw [step_ready hready, State.fetch_eq_instr (s := s.countStep) h0 hd]
  rfl

/-- Settles O31: both fetches that find no slot. -/
theorem fetchOutsideProgramAborts : Obligations.FetchOutsideProgramAborts := by
  refine ⟨fun s hready hpc => hready.step_outside (State.fetch_outside (s := s.countStep) hpc), ?_⟩
  intro s w hready h0 hw hop hlast
  exact hready.step_outside (State.fetch_wide_lastSlot (s := s.countStep) h0 hw (opcodeByte_eq hop) hlast)

/-! ### Starting, and not running (R31, R41, R274) -/

theorem step_of_startIn {s : State} {e : StartEvent} (h : s.startIn = some e) :
    step s = start e { s with startIn := none } := by
  simp only [step, h]

theorem step_of_not_running {s : State} (h : s.startIn = none) (hr : s.status ≠ .running) :
    step s = .fault .notRunning := by
  simp only [step, h, if_neg hr]

section
variable {e : StartEvent} {s : State}

theorem start_of_running (h : s.status = .running) : start e s = .refused .startWhileRunning := if_pos h

theorem start_of_legalLayout (h : s.status ≠ .running) (hl : LegalLayout (e.layout s.params.stackSize)) :
    start e s = .next (started e s) := (if_neg h).trans (if_pos ((layoutOk_iff _).2 hl))

theorem start_of_not_legalLayout (h : s.status ≠ .running) (hl : ¬LegalLayout (e.layout s.params.stackSize)) :
    start e s = .refused .startBadRegions := (if_neg h).trans (if_neg (mt (layoutOk_iff _).1 hl))

end

/-- Settles O43: the three answers to a start. -/
theorem startIsAcceptedOnlyWhenNotRunning : Obligations.StartIsAcceptedOnlyWhenNotRunning := by
  intro s e he
  rw [step_of_startIn he]
  exact ⟨start_of_running, fun hr hl => ⟨_, start_of_legalLayout hr hl, rfl⟩, start_of_not_legalLayout⟩

/-- Settles O42. -/
theorem noStepUnlessRunning : Obligations.NoStepUnlessRunning := fun _ => step_of_not_running

/-- Settles O46. -/
theorem resetIsTheStateAStartLeaves : Obligations.ResetIsTheStateAStartLeaves :=
  ⟨by decide, rfl, rfl, rfl, rfl, rfl, rfl, rfl, rfl, rfl, rfl, rfl, rfl⟩

/-! ### The forms of a meaning

`Shape` says what state an instruction can leave; a `Form` says which shared operation its meaning is, as a function of
the state, so that the register it may write (R22) and what it reads of the state (R35) are both seen from it. -/

/-- `s` with the run-status registers (R35) of `u`. -/
def State.withRunStatusOf (s u : State) : State :=
  { s with
    status := u.status, result := u.result, termCause := u.termCause, fault := u.fault, faultPc := u.faultPc,
    faultInfo := u.faultInfo, steps := u.steps }

/-- A value of the state that does not depend on the run-status registers. -/
def StatusBlind {α : Type} (f : State → α) : Prop := ∀ s u, f (s.withRunStatusOf u) = f s

/-- The meaning is this shared operation on operands that do not depend on the run-status registers, and may write this
register and no other. -/
inductive Form : Option Reg → (State → Out) → Prop where
  | write (dst : Reg) (n : Nat) (v : State → Word) (hv : StatusBlind v) :
      Form (some dst) fun s => .next ((s.setReg dst (v s)).advance n)
  | divide32 (f : BitVec 32 → BitVec 32 → BitVec 32) (dst : Reg) (b : State → BitVec 32) (hb : StatusBlind b) :
      Form (some dst) fun s => divide32 f dst (b s) s
  | divide64 (f : Word → Word → Word) (dst : Reg) (b : State → Word) (hb : StatusBlind b) :
      Form (some dst) fun s => divide64 f dst (b s) s
  | branch (c : State → Bool) (off : BitVec 16) (hc : StatusBlind c) : Form none fun s => branch (c s) off s
  | load (n : Nat) (dst base : Reg) (off : BitVec 16) : Form (some dst) (load n dst base off)
  | store (n : Nat) (base : Reg) (off : BitVec 16) (v : State → Word) (hv : StatusBlind v) :
      Form none fun s => store n base off (v s) s
  | call (imm : BitVec 32) : Form (some 0) (execCall imm)
  | exit : Form none execExit
  | raise (f : FaultCode) (info : Word) : Form none (raise f info)

/-- The form of each instruction, with its destination. -/
theorem exec_form (i : Instr) : Form (destOf i) (exec i) := by
  cases i
  case ja off => exact .branch (fun _ => true) off fun _ _ => rfl
  case exit => exact .exit
  case call => exact .call _
  case div32K | div32X | mod32K | mod32X => exact .divide32 _ _ _ fun _ _ => rfl
  case divK | divX | modK | modX => exact .divide64 _ _ _ fun _ _ => rfl
  case ldxw | ldxh | ldxb | ldxdw => exact .load _ _ _ _
  case stw | sth | stb | stdw | stxw | stxh | stxb | stxdw => exact .store _ _ _ _ fun _ _ => rfl
  case lddw | add32K | add32X | sub32K | sub32X | mul32K | mul32X | or32K | or32X | and32K | and32X | lsh32K |
      lsh32X | rsh32K | rsh32X | neg32 | xor32K | xor32X | mov32K | mov32X | arsh32K | arsh32X | addK | addX | subK |
      subX | mulK | mulX | orK | orX | andK | andX | lshK | lshX | rshK | rshX | neg | xorK | xorX | movK | movX |
      arshK | arshX | le16 | le32 | le64 | be16 | be32 | be64 | le16Alu64 | le32Alu64 | le64Alu64 | be16Alu64 |
      be32Alu64 | be64Alu64 =>
    exact .write _ _ _ fun _ _ => rfl
  case jeqK | jeqX | jgtK | jgtX | jgeK | jgeX | jsetK | jsetX | jneK | jneX | jsgtK | jsgtX | jsgeK | jsgeX | jltK |
      jltX | jleK | jleX | jsltK | jsltX | jsleK | jsleX | jeq32K | jeq32X | jgt32K | jgt32X | jge32K | jge32X |
      jset32K | jset32X | jne32K | jne32X | jsgt32K | jsgt32X | jsge32K | jsge32X | jlt32K | jlt32X | jle32K |
      jle32X | jslt32K | jslt32X | jsle32K | jsle32X =>
    exact .branch _ _ fun _ _ => rfl
  all_goals exact .raise _ _ -- the 45 aborting rows

/-! ### The register an instruction writes (R22) -/

theorem Form.reg_eq {d : Option Reg} {m : State → Out} {s t : State} {r : Reg} (hm : Form d m) (h : m s = .next t)
    (hr : d ≠ some r) : t.reg r = s.reg r := by
  have written (dst : Reg) (v : Word) (n : Nat) (hd : some dst ≠ some r) :
      ((s.setReg dst v).advance n).reg r = s.reg r := s.setReg_reg_ne dst r v fun e => hd (by rw [e])
  cases hm with
  | write dst n v => cases h; exact written dst _ n hr
  | divide32 f dst b =>
    dsimp only [Machine.divide32] at h
    split at h <;> cases h
    · rfl
    · exact written dst _ 1 hr
  | divide64 f dst b =>
    dsimp only [Machine.divide64] at h
    split at h <;> cases h
    · rfl
    · exact written dst _ 1 hr
  | branch c off => cases (branch_eq _ _ _).symm.trans h; rfl
  | load n dst base off =>
    rcases load_cases n dst base off s with ⟨-, e⟩ | ⟨-, -, e⟩ | ⟨-, -, e⟩ <;> cases e.symm.trans h
    · rfl
    · rfl
    · exact written dst _ 1 hr
  | store n base off v =>
    rcases store_cases n base off (v s) s with ⟨-, e⟩ | ⟨-, -, e⟩ | ⟨-, -, e⟩ <;> cases e.symm.trans h <;> rfl
  | call imm =>
    rcases execCall_cases imm s with ⟨-, e⟩ | ⟨k, -, -, ⟨a, rest, -, -, e⟩ | ⟨-, e⟩⟩ <;> cases e.symm.trans h
    · rfl
    · exact (finishCall_reg s a rest).2 r fun e => hr (by rw [e])
    · rfl
  | exit => cases h; rfl
  | raise f info => cases h; rfl

/-- Settles O35. -/
theorem onlyTheDestinationIsWritten : Obligations.OnlyTheDestinationIsWritten :=
  fun i _ _ _ h hr => (exec_form i).reg_eq h hr

/-! ### What an instruction reads (R35) -/

/-- What a program and its helpers see of the two states is the same. -/
structure SameView (t u : State) : Prop where
  regs : u.regs = t.regs
  mem : u.mem = t.mem
  pc : u.pc = t.pc
  helperReq : u.helperReq = t.helperReq
  helperRsp : u.helperRsp = t.helperRsp

/-- Where the first answer is a next state, so is the second, with the same view. -/
def ViewsAgree (o p : Out) : Prop := ∀ t, o = .next t → ∃ u, p = .next u ∧ SameView t u

theorem ViewsAgree.next {t u : State} (h : SameView t u) : ViewsAgree (.next t) (.next u) := by
  rintro _ ⟨⟩
  exact ⟨u, rfl, h⟩

/-- Two computations that branch on the same condition. -/
theorem ViewsAgree.ite {c : Prop} [Decidable c] {o p o' p' : Out} (h : ViewsAgree o p) (h' : ViewsAgree o' p') :
    ViewsAgree (if c then o else o') (if c then p else p') := by
  split
  · exact h
  · exact h'

section
variable (s u : State)

theorem State.withRunStatusOf_bytesAt (a n : Nat) : (s.withRunStatusOf u).bytesAt a n = s.bytesAt a n := by
  induction n generalizing a with
  | zero => rfl
  | succ n ih => exact congrArg (s.byteAt a :: ·) (ih (a + 1))

theorem State.withRunStatusOf_memRead (a n : Nat) : (s.withRunStatusOf u).memRead a n = s.memRead a n :=
  congrArg (ofBytes s.params.byteOrder) (s.withRunStatusOf_bytesAt u a n)

theorem helperAllows_withRunStatusOf (q : HelperRequest) (r : HelperResponse) :
    HelperAllows (s.withRunStatusOf u) q r ↔ HelperAllows s q r := by
  rw [← State.allowsAnswer_iff, ← State.allowsAnswer_iff]
  rfl

/-- The writes of a helper depend on the state only by which bytes are writable (R232). -/
theorem State.helperWrites_congr {s t : State} (h : ∀ a, t.admitsWrite a 1 = s.admitsWrite a 1)
    (cs : List Host.Cell) (m : Memory) : t.helperWrites cs m = s.helperWrites cs m := by
  induction cs generalizing m with
  | nil => rfl
  | cons c cs ih => rw [State.helperWrites, State.helperWrites, ih, h]

theorem raise_viewsAgree (f : FaultCode) (info : Word) :
    ViewsAgree (raise f info s) (raise f info (s.withRunStatusOf u)) := .next ⟨rfl, rfl, rfl, rfl, rfl⟩

theorem terminate_viewsAgree (v : Word) (c : TermCause) :
    ViewsAgree (terminate v c s) (terminate v c (s.withRunStatusOf u)) := .next ⟨rfl, rfl, rfl, rfl, rfl⟩

theorem write_viewsAgree (dst : Reg) (n : Nat) (v : Word) :
    ViewsAgree (.next ((s.setReg dst v).advance n)) (.next (((s.withRunStatusOf u).setReg dst v).advance n)) :=
  .next ⟨rfl, rfl, rfl, rfl, rfl⟩

theorem branch_viewsAgree (c : Bool) (off : BitVec 16) :
    ViewsAgree (branch c off s) (branch c off (s.withRunStatusOf u)) := by
  rw [branch_eq, branch_eq]
  exact .next ⟨rfl, rfl, rfl, rfl, rfl⟩

theorem load_viewsAgree (n : Nat) (dst base : Reg) (off : BitVec 16) :
    ViewsAgree (load n dst base off s) (load n dst base off (s.withRunStatusOf u)) := by
  dsimp only [load]
  rw [s.withRunStatusOf_memRead]
  exact .ite (raise_viewsAgree s u _ _) (.ite (raise_viewsAgree s u _ _) (write_viewsAgree s u dst 1 _))

theorem store_viewsAgree (n : Nat) (base : Reg) (off : BitVec 16) (v : Word) :
    ViewsAgree (store n base off v s) (store n base off v (s.withRunStatusOf u)) :=
  .ite (raise_viewsAgree s u _ _) (.ite (raise_viewsAgree s u _ _) (.next ⟨rfl, rfl, rfl, rfl, rfl⟩))

theorem finishCall_sameView (r : HelperResponse) (rest : List HelperResponse) :
    SameView (finishCall r { s with helperRsp := rest })
      (finishCall r { s.withRunStatusOf u with helperRsp := rest }) where
  regs := rfl
  mem := State.helperWrites_congr (s := { s with helperRsp := rest })
    (t := { s.withRunStatusOf u with helperRsp := rest }) (fun _ => rfl) r.writes s.mem
  pc := rfl
  helperReq := rfl
  helperRsp := rfl

/-- Both states take the answer at the port, or neither does. -/
theorem callHelper_viewsAgree (k : Nat) : ViewsAgree (callHelper k s) (callHelper k (s.withRunStatusOf u)) := by
  refine .next ?_
  rcases takeAnswer_cases (helperRequest k s) s with ⟨r, rest, hr, ha, e⟩ | ⟨hn, e⟩ <;>
    rcases takeAnswer_cases (helperRequest k (s.withRunStatusOf u)) (s.withRunStatusOf u) with
      ⟨r', rest', hr', ha', e'⟩ | ⟨hn', e'⟩ <;> rw [e, e']
  · cases hr.symm.trans hr'
    exact finishCall_sameView s u r rest
  · exact absurd ((helperAllows_withRunStatusOf s u _ r).2 ha) (hn' r rest hr)
  · exact absurd ((helperAllows_withRunStatusOf s u _ r').1 ha') (hn r' rest' hr')
  · exact ⟨rfl, rfl, rfl, rfl, rfl⟩

end

theorem Form.viewsAgree {d : Option Reg} {m : State → Out} (hm : Form d m) (s u : State) :
    ViewsAgree (m s) (m (s.withRunStatusOf u)) := by
  cases hm with
  | write dst n v hv => simp only [hv s u]; exact write_viewsAgree s u dst n _
  | divide32 f dst b hb =>
    simp only [hb s u]; exact .ite (terminate_viewsAgree s u _ _) (write_viewsAgree s u dst 1 _)
  | divide64 f dst b hb =>
    simp only [hb s u]; exact .ite (terminate_viewsAgree s u _ _) (write_viewsAgree s u dst 1 _)
  | branch c off hc => simp only [hc s u]; exact branch_viewsAgree s u _ off
  | load n dst base off => exact load_viewsAgree s u n dst base off
  | store n base off v hv => simp only [hv s u]; exact store_viewsAgree s u n base off _
  | call imm => exact .ite (raise_viewsAgree s u _ _) (callHelper_viewsAgree s u _)
  | exit => exact terminate_viewsAgree s u _ _
  | raise f info => exact raise_viewsAgree s u f info

/-- Settles O36: the second state is the first with the run-status registers of another. -/
theorem runStatusIsNotRead : Obligations.RunStatusIsNotRead := by
  intro i s t st res tc f fpc fi n h
  obtain ⟨t', ht', hv⟩ := (exec_form i).viewsAgree s
    { s with
      status := st, result := res, termCause := tc, fault := f, faultPc := fpc, faultInfo := fi, steps := n } t h
  exact ⟨t', ht', hv.regs, hv.mem, hv.pc, hv.helperReq, hv.helperRsp⟩

end Sys2Proof.Machine

namespace Sys2Proof.Machine

/-! ## Memory: what a step leaves alone, what a program can learn, what a load finds -/

/-! ### What a step leaves alone (R55, R64, R232, R235) -/

section
variable {s t : State}

/-- A step without a start is a helper's answer to a waiting CALL, or has one of the shapes of an instruction, with the
step counted or not. -/
theorem step_answer_or_shape (h0 : s.startIn = none) (h : step s = .next t) :
    (∃ r rest, t = finishCall r { s with helperRsp := rest }) ∨ Shape s t ∨ Shape s.countStep t := by
  rcases step_cases h with ⟨e, he, -⟩ |
    ⟨-, -, ⟨q, r, rest, -, -, -, rfl⟩ | ⟨-, ⟨-, rfl⟩ | ⟨-, ⟨p, -, rfl⟩ | ⟨i, -, hi⟩⟩⟩⟩
  · cases h0.symm.trans he
  · exact .inl ⟨r, rest, rfl⟩
  · exact .inr (.inl (.abort _ _ (by decide)))
  · exact .inr (.inr (.abort _ _ (by decide)))
  · exact .inr (.inr (exec_shape hi))

theorem Shape.sameSetting (h : Shape s t) : SameSetting s t := by
  cases h <;> exact ⟨rfl, rfl, rfl, rfl, rfl, rfl⟩

/-- A store writes inside the range it was admitted for, a helper where R232 lets it; the other shapes write no byte. -/
theorem Shape.byteAt_of_not_writable (h : Shape s t) {a : Nat} (ha : ¬Writable s a 1) : t.byteAt a = s.byteAt a := by
  cases h with
  | store b n v hw =>
    refine s.memWrite_byteAt_outside b n v a ?_
    by_contra hin
    exact ha (hw.byte (by omega) (by omega))
  | answer k r rest => exact finishCall_byteAt_outside s r rest a ha
  | reg | jump | abort | finish | wait => rfl

end

/-- Settles O38, from the bytes a helper's answer and each shape of an instruction leave alone. -/
theorem onlyWritableBytesChange : Obligations.OnlyWritableBytesChange := by
  intro s t a h0 h ha
  rcases step_answer_or_shape h0 h with ⟨r, rest, rfl⟩ | hs | hs
  · exact finishCall_byteAt_outside s r rest a ha
  · exact hs.byteAt_of_not_writable ha
  · exact hs.byteAt_of_not_writable (s := s.countStep) ha

/-- Settles O37, over the same cases. -/
theorem programAndHelperTableAreReadOnly : Obligations.ProgramAndHelperTableAreReadOnly := by
  intro s t h0 h
  rcases step_answer_or_shape h0 h with ⟨r, rest, rfl⟩ | hs | hs
  · exact (finishCall_answeredBy s r rest).setting
  · exact hs.sameSetting
  · exact { hs.sameSetting with }

/-! ### What a program can learn of memory (R55, R65)

Two states that agree on everything but bytes outside every region: first what they agree on, then that each operation
keeps the agreement, then that every meaning and the step do. -/

section
variable {s s' : State}

theorem SameVisible.readable_iff (h : SameVisible s s') (a n : Nat) : Readable s' a n ↔ Readable s a n := by
  rw [Readable, Readable, h.stackBase, h.params, h.regions]

theorem SameVisible.writable_iff (h : SameVisible s s') (a n : Nat) : Writable s' a n ↔ Writable s a n := by
  rw [Writable, Writable, h.stackBase, h.params, h.regions]

theorem SameVisible.symm (h : SameVisible s s') : SameVisible s' s where
  regs := h.regs.symm
  pc := h.pc.symm
  status :=
    ⟨h.status.status.symm, h.status.result.symm, h.status.termCause.symm, h.status.fault.symm,
      h.status.faultPc.symm, h.status.faultInfo.symm, h.status.steps.symm⟩
  prog := h.prog.symm
  helpers := h.helpers.symm
  stackBase := h.stackBase.symm
  regions := h.regions.symm
  params := h.params.symm
  ports := ⟨h.ports.helperReq.symm, h.ports.helperRsp.symm, h.ports.startIn.symm⟩
  bytes := fun a ha => (h.bytes a ((h.readable_iff a 1).1 ha)).symm

/-- A read that is admitted finds the same value in both states. -/
theorem SameVisible.memRead_eq (h : SameVisible s s') {a n : Nat} (hr : Readable s a n) :
    s'.memRead a n = s.memRead a n := by
  have hb : s'.bytesAt a n = s.bytesAt a n := List.ext_getElem (by simp) fun i hi _ => by
    rw [State.bytesAt_getElem, State.bytesAt_getElem]
    exact h.bytes _ (hr.byte (by omega) (by simpa using hi))
  rw [State.memRead, State.memRead, h.params, hb]

/-- A row asks only for bytes of the data memory and compares only writable ones (R50, R232, log 12). -/
theorem SameVisible.rowAllows (h : SameVisible s s') {row : HelperRow} {q : HelperRequest} {r : HelperResponse}
    (hr : RowAllows row q r s) : RowAllows row q r s' where
  applies :=
    { hr.applies with
      reads := fun c hc => by
        obtain ⟨hread, hbyte⟩ := hr.applies.reads c hc
        exact ⟨(h.readable_iff _ _).2 hread, (h.bytes _ hread).trans hbyte⟩ }
  result := hr.result
  writes := fun ws hws a ha => by
    have ha : Writable s a 1 := (h.writable_iff a 1).1 ha
    rw [h.bytes a ha.readable]
    exact hr.writes ws hws a ha

theorem SameVisible.helperAllows (h : SameVisible s s') {q : HelperRequest} {r : HelperResponse}
    (ha : HelperAllows s q r) : HelperAllows s' q r := fun rows hrows => by
  obtain ⟨row, hmem, hrow⟩ := ha rows (h.helpers ▸ hrows)
  exact ⟨row, hmem, h.rowAllows hrow⟩

theorem SameVisible.setReg (h : SameVisible s s') (r : Reg) (v : Word) : SameVisible (s.setReg r v) (s'.setReg r v) :=
  { h with
    regs := congrArg (·.set r v) h.regs
    status := { h.status with }
    ports := { h.ports with } }

theorem SameVisible.setPc (h : SameVisible s s') (p : Int) : SameVisible (s.setPc p) (s'.setPc p) :=
  { h with
    pc := rfl
    status := { h.status with }
    ports := { h.ports with } }

theorem SameVisible.advance (h : SameVisible s s') (n : Nat) : SameVisible (s.advance n) (s'.advance n) := by
  rw [State.advance, State.advance, h.pc]
  exact h.setPc _

theorem SameVisible.countStep (h : SameVisible s s') : SameVisible s.countStep s'.countStep :=
  { h with
    status := { h.status with steps := congrArg (· + 1) h.status.steps }
    ports := { h.ports with } }

theorem SameVisible.abort (h : SameVisible s s') (f : FaultCode) (info : Word) :
    SameVisible (s.abort f info) (s'.abort f info) :=
  { h with
    status := ⟨rfl, rfl, h.status.termCause, rfl, h.pc, rfl, h.status.steps⟩
    ports := { h.ports with } }

theorem SameVisible.finish (h : SameVisible s s') (v : Word) (c : TermCause) :
    SameVisible (s.finish v c) (s'.finish v c) :=
  { h.advance 1 with
    status := ⟨rfl, rfl, rfl, rfl, h.status.faultPc, rfl, h.status.steps⟩
    ports := { h.ports with } }

/-- The written bytes are the same in both states, and the others are as before. -/
theorem SameVisible.memWrite (h : SameVisible s s') (a n : Nat) (v : Word) :
    SameVisible (s.memWrite a n v) (s'.memWrite a n v) :=
  { h with
    status := { h.status with }
    ports := { h.ports with }
    bytes := fun x hx => by
      by_cases hin : a ≤ x ∧ x < a + n
      · obtain ⟨i, rfl⟩ := Nat.exists_eq_add_of_le hin.1
        apply BitVec.eq_of_toNat_eq
        rw [s'.memWrite_byteAt_inside a n v i (by omega), s.memWrite_byteAt_inside a n v i (by omega), h.params]
      · rw [s'.memWrite_byteAt_outside a n v x (by omega), s.memWrite_byteAt_outside a n v x (by omega)]
        exact h.bytes x hx }

/-- Each writable byte holds the answer's last write or what it held; the others are as before (R232). -/
theorem SameVisible.answer (h : SameVisible s s') (r : HelperResponse) (rest : List HelperResponse) :
    SameVisible (finishCall r { s with helperRsp := rest }) (finishCall r { s' with helperRsp := rest }) :=
  { h with
    regs := congrArg (·.set 0 r.result) h.regs
    pc := congrArg (· + 1) h.pc
    status := { h.status with }
    ports := ⟨rfl, rfl, h.ports.startIn⟩
    bytes := fun a ha => by
      by_cases hw : Writable s a 1
      · rw [finishCall_byteAt_writable s' r rest a ((h.writable_iff a 1).2 hw),
          finishCall_byteAt_writable s r rest a hw, h.bytes a hw.readable]
      · rw [finishCall_byteAt_outside s' r rest a (mt (h.writable_iff a 1).1 hw),
          finishCall_byteAt_outside s r rest a hw]
        exact h.bytes a ha }

theorem SameVisible.request (h : SameVisible s s') (q : HelperRequest) :
    SameVisible { s with helperReq := some q } { s' with helperReq := some q } :=
  { h with
    status := { h.status with }
    ports := ⟨rfl, h.ports.helperRsp, h.ports.startIn⟩ }

/-- Both states take the answer at the port, or neither does. -/
theorem SameVisible.takeAnswer (h : SameVisible s s') (q : HelperRequest) :
    (∃ t t', takeAnswer q s = some t ∧ takeAnswer q s' = some t' ∧ SameVisible t t') ∨
      (takeAnswer q s = none ∧ takeAnswer q s' = none) := by
  rcases takeAnswer_cases q s with ⟨r, rest, hr, ha, e⟩ | ⟨hn, e⟩ <;>
    rcases takeAnswer_cases q s' with ⟨r', rest', hr', ha', e'⟩ | ⟨hn', e'⟩
  · cases hr.symm.trans (h.ports.helperRsp.symm.trans hr')
    exact .inl ⟨_, _, e, e', h.answer r rest⟩
  · exact absurd (h.helperAllows ha) (hn' r rest (h.ports.helperRsp.trans hr))
  · exact absurd (h.symm.helperAllows ha') (hn r' rest' (h.ports.helperRsp.symm.trans hr'))
  · exact .inr ⟨e, e'⟩

end

/-- `s` with the data memory of `u`. -/
def State.withMemoryOf (s u : State) : State := { s with mem := u.mem, draw := u.draw }

/-- States that agree on everything but bytes outside every region differ only in their memory, so an operand that is
not read from memory is the same in both by computation. -/
theorem SameVisible.exists_withMemoryOf {s s' : State} (h : SameVisible s s') : ∃ u, s' = s.withMemoryOf u := by
  refine ⟨s', ?_⟩
  rw [State.withMemoryOf, ← h.regs, ← h.pc, ← h.status.status, ← h.status.result, ← h.status.termCause,
    ← h.status.fault, ← h.status.faultPc, ← h.status.faultInfo, ← h.status.steps, ← h.prog, ← h.helpers,
    ← h.stackBase, ← h.regions, ← h.params, ← h.ports.helperReq, ← h.ports.helperRsp, ← h.ports.startIn]

/-- The two answers are the same, up to bytes outside every region. -/
inductive VisiblyAgree : Out → Out → Prop where
  | next {t t' : State} (h : SameVisible t t') : VisiblyAgree (.next t) (.next t')
  | fault (f : Fault) : VisiblyAgree (.fault f) (.fault f)
  | refused (r : Refusal) : VisiblyAgree (.refused r) (.refused r)

theorem VisiblyAgree.exists_next {t : State} {p : Out} (h : VisiblyAgree (.next t) p) :
    ∃ t', p = .next t' ∧ SameVisible t t' := by
  cases h with
  | next ht => exact ⟨_, rfl, ht⟩

/-- Two computations that branch on the same condition. -/
theorem VisiblyAgree.ite {c : Prop} [Decidable c] {o p o' p' : Out} (h : c → VisiblyAgree o p)
    (h' : ¬c → VisiblyAgree o' p') : VisiblyAgree (if c then o else o') (if c then p else p') := by
  split
  · exact h ‹_›
  · exact h' ‹_›

section
variable {s u : State} (h : SameVisible s (s.withMemoryOf u))
include h

theorem raise_visiblyAgree (f : FaultCode) (info : Word) :
    VisiblyAgree (raise f info s) (raise f info (s.withMemoryOf u)) := .next (h.abort f info)

theorem terminate_visiblyAgree (v : Word) (c : TermCause) :
    VisiblyAgree (terminate v c s) (terminate v c (s.withMemoryOf u)) := .next (h.finish v c)

theorem writeReg_visiblyAgree (dst : Reg) (v : Word) :
    VisiblyAgree (writeReg dst v s) (writeReg dst v (s.withMemoryOf u)) := .next ((h.setReg dst v).advance 1)

theorem divide32_visiblyAgree (f : BitVec 32 → BitVec 32 → BitVec 32) (dst : Reg) (b : BitVec 32) :
    VisiblyAgree (divide32 f dst b s) (divide32 f dst b (s.withMemoryOf u)) :=
  .ite (fun _ => terminate_visiblyAgree h _ _) fun _ => writeReg_visiblyAgree h dst _

theorem divide64_visiblyAgree (f : Word → Word → Word) (dst : Reg) (b : Word) :
    VisiblyAgree (divide64 f dst b s) (divide64 f dst b (s.withMemoryOf u)) :=
  .ite (fun _ => terminate_visiblyAgree h _ _) fun _ => writeReg_visiblyAgree h dst _

theorem branch_visiblyAgree (c : Bool) (off : BitVec 16) :
    VisiblyAgree (branch c off s) (branch c off (s.withMemoryOf u)) := by
  rw [branch_eq, branch_eq]
  exact .next (h.setPc _)

/-- A load looks at memory only after its range is found inside one region (R219). -/
theorem load_visiblyAgree (n : Nat) (dst base : Reg) (off : BitVec 16) :
    VisiblyAgree (load n dst base off s) (load n dst base off (s.withMemoryOf u)) := by
  refine .ite (fun _ => raise_visiblyAgree h _ _) fun hr => .ite (fun _ => raise_visiblyAgree h _ _) fun _ => ?_
  have hv : (s.withMemoryOf u).memRead (effAddr s base off).toNat n = s.memRead (effAddr s base off).toNat n :=
    h.memRead_eq ((s.admitsRead_iff _ _).1 (by simpa using hr))
  exact hv ▸ writeReg_visiblyAgree h dst _

theorem store_visiblyAgree (n : Nat) (base : Reg) (off : BitVec 16) (v : Word) :
    VisiblyAgree (store n base off v s) (store n base off v (s.withMemoryOf u)) :=
  .ite (fun _ => raise_visiblyAgree h _ _) fun _ => .ite (fun _ => raise_visiblyAgree h _ _) fun _ =>
    .next ((h.memWrite _ n v).advance 1)

theorem execCall_visiblyAgree (imm : BitVec 32) :
    VisiblyAgree (execCall imm s) (execCall imm (s.withMemoryOf u)) := by
  have hq (k : Nat) : helperRequest k (s.withMemoryOf u) = helperRequest k s := rfl
  refine .ite (fun _ => raise_visiblyAgree h _ _) fun _ => ?_
  rw [callHelper, callHelper, hq]
  rcases h.takeAnswer (helperRequest (helperIndex imm).toNat s) with ⟨t, t', e, e', ht⟩ | ⟨e, e'⟩ <;> rw [e, e']
  · exact .next ht
  · exact .next (h.request _)

theorem resumeCall_visiblyAgree (q : HelperRequest) :
    VisiblyAgree (resumeCall q s) (resumeCall q (s.withMemoryOf u)) := by
  have hrsp : (s.withMemoryOf u).helperRsp = s.helperRsp := rfl
  rw [resumeCall, resumeCall, hrsp]
  rcases h.takeAnswer q with ⟨t, t', e, e', ht⟩ | ⟨e, e'⟩ <;> rw [e, e']
  · exact .next ht
  · exact .ite (fun _ => .fault _) fun _ => .refused _

/-- No meaning tells the two states apart. -/
theorem exec_visiblyAgree (i : Instr) : VisiblyAgree (exec i s) (exec i (s.withMemoryOf u)) := by
  cases i
  case ja => exact .next (h.setPc _)
  case exit => exact terminate_visiblyAgree h _ _
  case call => exact execCall_visiblyAgree h _
  case lddw => exact .next ((h.setReg _ _).advance 2)
  case div32K | div32X | mod32K | mod32X => exact divide32_visiblyAgree h _ _ _
  case divK | divX | modK | modX => exact divide64_visiblyAgree h _ _ _
  case ldxw | ldxh | ldxb | ldxdw => exact load_visiblyAgree h _ _ _ _
  case stw | sth | stb | stdw | stxw | stxh | stxb | stxdw => exact store_visiblyAgree h _ _ _ _
  case add32K | add32X | sub32K | sub32X | mul32K | mul32X | or32K | or32X | and32K | and32X | lsh32K | lsh32X |
      rsh32K | rsh32X | neg32 | xor32K | xor32X | mov32K | mov32X | arsh32K | arsh32X | addK | addX | subK | subX |
      mulK | mulX | orK | orX | andK | andX | lshK | lshX | rshK | rshX | neg | xorK | xorX | movK | movX | arshK |
      arshX | le16 | le32 | le64 | be16 | be32 | be64 | le16Alu64 | le32Alu64 | le64Alu64 | be16Alu64 | be32Alu64 |
      be64Alu64 =>
    exact writeReg_visiblyAgree h _ _
  case jeqK | jeqX | jgtK | jgtX | jgeK | jgeX | jsetK | jsetX | jneK | jneX | jsgtK | jsgtX | jsgeK | jsgeX | jltK |
      jltX | jleK | jleX | jsltK | jsltX | jsleK | jsleX | jeq32K | jeq32X | jgt32K | jgt32X | jge32K | jge32X |
      jset32K | jset32X | jne32K | jne32X | jsgt32K | jsgt32X | jsge32K | jsge32X | jlt32K | jlt32X | jle32K |
      jle32X | jslt32K | jslt32X | jsle32K | jsle32X =>
    exact branch_visiblyAgree h _ _
  all_goals exact raise_visiblyAgree h _ _ -- the 45 aborting rows

theorem runStep_visiblyAgree : VisiblyAgree (runStep s) (runStep (s.withMemoryOf u)) := by
  refine .ite (fun _ => raise_visiblyAgree h _ _) fun _ => ?_
  have hf : (s.withMemoryOf u).countStep.fetch = s.countStep.fetch := rfl
  rw [hf]
  cases s.countStep.fetch with
  | instr i => exact exec_visiblyAgree (s := s.countStep) (u := u) h.countStep i
  | outside p => exact raise_visiblyAgree (s := s.countStep) (u := u) h.countStep _ _

theorem step_visiblyAgree (h0 : s.startIn = none) : VisiblyAgree (step s) (step (s.withMemoryOf u)) := by
  have h0' : (s.withMemoryOf u).startIn = none := h0
  simp only [step, h0, h0']
  refine .ite (fun _ => ?_) fun _ => .fault _
  have hq : (s.withMemoryOf u).helperReq = s.helperReq := rfl
  rw [hq]
  cases s.helperReq with
  | some q => exact resumeCall_visiblyAgree h q
  | none => exact runStep_visiblyAgree h

end

/-- Settles O39: the second state is the first with another memory, and no operation tells them apart. -/
theorem bytesOutsideRegionsAreInvisible : Obligations.BytesOutsideRegionsAreInvisible := by
  intro s s' t h h0 hs
  obtain ⟨u, rfl⟩ := h.exists_withMemoryOf
  exact (hs ▸ step_visiblyAgree h h0).exists_next

/-! ### What a load finds after a store (R53, R61) -/

/-- The low `n` bytes of a number, each at its place, are the number modulo `256 ^ n`. -/
theorem sum_byteOf (v n : Nat) : ∑ i ∈ Finset.range n, byteOf v i * 256 ^ i = v % 256 ^ n := by
  induction n with
  | zero => simp [Nat.mod_one]
  | succ n ih => rw [Finset.sum_range_succ, ih, Nat.mod_pow_succ, byteOf, Nat.mul_comm]

theorem sum_byteOf_placeOf (o : ByteOrder) (v n : Nat) :
    ∑ i ∈ Finset.range n, byteOf v (placeOf o n i) * 256 ^ placeOf o n i = v % 256 ^ n := by
  cases o with
  | little => exact sum_byteOf v n
  | big => exact (Finset.sum_range_reflect (fun i => byteOf v i * 256 ^ i) n).trans (sum_byteOf v n)

/-- Stored bytes read back: all of them, or on a little-endian core the first `m`. -/
theorem Stored.valueAt_eq {n a v m : Nat} {s t : State} (h : Stored n a v s t)
    (hm : m = n ∨ m < n ∧ s.params.byteOrder = .little) : valueAt t a m = v % 256 ^ m := by
  obtain ⟨hbytes, -, -, -, -, hset, -⟩ := h
  have hplace (i : Nat) : placeOf s.params.byteOrder n i = placeOf s.params.byteOrder m i := by
    rcases hm with rfl | ⟨-, ho⟩
    · rfl
    · rw [ho]; rfl
  rw [← sum_byteOf_placeOf s.params.byteOrder, valueAt, hset.params]
  refine Finset.sum_congr rfl fun i hi => ?_
  have hi : i < m := Finset.mem_range.1 hi
  rw [hbytes i (by omega), hplace]

theorem exec_of_mem_loadsByWidth {m : Nat} {ld : Reg → Reg → BitVec 16 → Instr} (h : (m, ld) ∈ loadsByWidth)
    (dst base : Reg) (off : BitVec 16) (s : State) : exec (ld dst base off) s = load m dst base off s := by
  simp only [loadsByWidth, List.mem_cons, Prod.mk.injEq, List.not_mem_nil, or_false] at h
  rcases h with ⟨rfl, rfl⟩ | ⟨rfl, rfl⟩ | ⟨rfl, rfl⟩ | ⟨rfl, rfl⟩ <;> rfl

/-- A load that is admitted writes the value of the bytes it names (R201). -/
theorem writesReg_of_load {i : Instr} {n : Nat} {dst base : Reg} {off : BitVec 16} {s : State} (hn : n ≤ 8)
    (e : exec i s = load n dst base off s) (hr : Readable s (eaOf s base off) n)
    (ha : AlignedOrAllowed s (eaOf s base off) n) : WritesReg i dst (valueAt s (eaOf s base off) n) s := by
  rw [← effAddr_toNat] at *
  rcases load_cases n dst base off s with ⟨hnr, -⟩ | ⟨-, hna, -⟩ | ⟨-, -, hl⟩
  · exact absurd hr hnr
  · exact absurd ha hna
  · exact writesReg_of (v := s.memRead (effAddr s base off).toNat n) (e.trans hl) (s.memRead_toNat _ _ hn)

/-- A store that goes on was admitted, aligned, and has stored. -/
theorem Stores.stored {n v : Nat} {i : Instr} {base : Reg} {off : BitVec 16} {s t : State} (h : Stores n i base off v s)
    (ht : exec i s = .next t) (hrun : t.status = .running) :
    Writable s (eaOf s base off) n ∧ AlignedOrAllowed s (eaOf s base off) n ∧ Stored n (eaOf s base off) v s t := by
  have not_aborts (f : FaultCode) (info : Nat) : ¬Aborts i f info s := by
    rintro ⟨t', ht', hab⟩
    cases ht.symm.trans ht'
    cases hrun.symm.trans hab.status
  obtain ⟨hout, hmis, hok⟩ := h
  by_cases hw : Writable s (eaOf s base off) n
  · by_cases ha : AlignedOrAllowed s (eaOf s base off) n
    · obtain ⟨t', ht', hst⟩ := hok hw ha
      cases ht.symm.trans ht'
      exact ⟨hw, ha, hst⟩
    · exact absurd (hmis hw ha) (not_aborts _ _)
  · exact absurd (hout hw) (not_aborts _ _)

/-- A narrower width divides a wider one, so an address aligned for the store is aligned for the load. -/
theorem AlignedOrAllowed.narrower {m n a : Nat} {s : State} (h : AlignedOrAllowed s a n)
    (hm : m ∈ loadsByWidth.map Prod.fst) (hn : n ∈ loadsByWidth.map Prod.fst) (hle : m ≤ n) :
    AlignedOrAllowed s a m := by
  have hdvd : ∀ m ∈ loadsByWidth.map Prod.fst, ∀ n ∈ loadsByWidth.map Prod.fst, m ≤ n → m ∣ n := by decide
  exact h.imp_left fun h0 => Nat.mod_eq_zero_of_dvd ((hdvd m hm n hn hle).trans (Nat.dvd_of_mod_eq_zero h0))

theorem Within.narrower {r : Region} {a m n : Nat} (h : Within r a n) (hle : m ≤ n) : Within r a m :=
  ⟨h.1, (Nat.add_le_add_left hle a).trans h.2⟩

theorem Readable.narrower {s : State} {a m n : Nat} (h : Readable s a n) (hle : m ≤ n) : Readable s a m :=
  h.imp (·.narrower hle) fun ⟨r, hr, hw⟩ => ⟨r, hr, hw.narrower hle⟩

/-- A store of one of the four widths is read back by the loads from the same base and offset. -/
theorem Stores.reloads {n v : Nat} {st : Instr} {base : Reg} {off : BitVec 16} {s : State}
    (h : Stores n st base off v s) (hn : n ∈ loadsByWidth.map Prod.fst) : Reloads n st base off v s := by
  intro m ld hld hm t dst ht hrun
  obtain ⟨hw, ha, hst⟩ := h.stored ht hrun
  have ⟨_, _, _, hregs, _, hset, _⟩ := hst
  have hwidth : m ∈ loadsByWidth.map Prod.fst := List.mem_map_of_mem (f := Prod.fst) hld
  have hle : m ≤ n := hm.elim Eq.le fun hlt => hlt.1.le
  have hea : eaOf t base off = eaOf s base off := by rw [eaOf, eaOf, hregs]
  have hread : Readable t (eaOf t base off) m := by
    rw [Readable, hset.stackBase, hset.params, hset.regions, hea]
    exact hw.readable.narrower hle
  have halign : AlignedOrAllowed t (eaOf t base off) m := by
    rw [AlignedOrAllowed, hset.params, hea]
    exact ha.narrower hwidth hn hle
  have h8 : ∀ k ∈ loadsByWidth.map Prod.fst, k ≤ 8 := by decide
  rw [← hst.valueAt_eq hm, ← hea]
  exact writesReg_of_load (h8 m hwidth) (exec_of_mem_loadsByWidth hld dst base off t) hread halign

/-- Settles O20: each of the eight stores by its width and the value it stores. -/
theorem loadReturnsLastStore : Obligations.LoadReturnsLastStore := by
  intro s base src off imm _
  have himm : (imm.signExtend 64).toNat = sextNat imm.toNat := signExtend64_toNat imm
  refine ⟨(stores_of rfl rfl).reloads ?_, (stores_of rfl rfl).reloads ?_, (stores_of rfl rfl).reloads ?_,
    (stores_of rfl rfl).reloads ?_, (stores_of himm rfl).reloads ?_, (stores_of himm rfl).reloads ?_,
    (stores_of himm rfl).reloads ?_, (stores_of himm rfl).reloads ?_⟩ <;> decide

end Sys2Proof.Machine

namespace Sys2Proof

/-! ## Decoding and encoding: the words of a row, the opcode byte of a tag, decoding what was encoded -/

/-! ### The words of a row -/

theorem opcodeByte_eq_setWidth (w : Word) : opcodeByte w = w.setWidth 8 :=
  (BitVec.setWidth_eq_extractLsb' (by decide)).symm

section
variable {w m p m' p' : Word}

/-- A word of a row agrees with its pattern on each bit of its mask. -/
theorem getLsbD_of_inRow (h : inRow w m p = true) {k : Nat} (hm : m.getLsbD k = true) : w.getLsbD k = p.getLsbD k := by
  rw [← beq_iff_eq.1 h, BitVec.getLsbD_and, hm, Bool.and_true]

theorem inRow_or (h : inRow w m p = true) (h' : inRow w m' p' = true) : inRow w (m ||| m') (p ||| p') = true := by
  rw [inRow, beq_iff_eq, BitVec.and_or_distrib_left, beq_iff_eq.1 h, beq_iff_eq.1 h']

theorem inRow_of_bit_set {k : Nat} (h : w.getLsbD k = true) :
    inRow w (BitVec.twoPow 64 k) (BitVec.twoPow 64 k) = true := by
  rw [inRow, beq_iff_eq, BitVec.and_twoPow, if_pos h]

theorem inRow_of_bit_clear {k : Nat} (h : w.getLsbD k = false) : inRow w (BitVec.twoPow 64 k) 0 = true := by
  rw [inRow, beq_iff_eq, BitVec.and_twoPow, h]
  rfl

theorem opcodeByte_and_of_inRow (h : inRow w m p = true) : opcodeByte w &&& m.setWidth 8 = p.setWidth 8 := by
  rw [← beq_iff_eq.1 h, BitVec.setWidth_and, opcodeByte_eq_setWidth]

/-- A row that fixes the whole opcode byte. -/
theorem opcodeByte_of_inRow (h : inRow w m p = true) (hm : m.setWidth 8 = 0xff) : opcodeByte w = p.setWidth 8 := by
  rw [← opcodeByte_and_of_inRow h, hm]
  exact BitVec.and_allOnes.symm

/-- A row that fixes bits of the opcode byte alone (R85) asks nothing of the rest of the word. -/
theorem inRow_opcodeByte (hm : (m.setWidth 8).setWidth 64 = m) :
    inRow ((opcodeByte w).setWidth 64) m p = inRow w m p := by
  have hand : (opcodeByte w).setWidth 64 &&& m = w &&& m := by
    rw [opcodeByte_eq_setWidth, ← hm]
    ext k hk
    by_cases h8 : k < 8
    · simp [h8, BitVec.getLsbD_eq_getElem hk]
    · simp [h8]
  rw [inRow, inRow, hand]

theorem inRow_of_opcodeByte {b : BitVec 8} (h : opcodeByte w = b) (hm : (m.setWidth 8).setWidth 64 = m)
    (hb : inRow (b.setWidth 64) m p = true) : inRow w m p = true := by
  rw [← inRow_opcodeByte hm, h, hb]

end

/-! ### The opcode byte of a tag (R71) -/

/-- The opcode byte of a tag that is no decode fault. The field values stand in the order of their numbers (R72 to R77),
so the index of a constructor is its number. -/
def Tag.opcode : Tag → BitVec 8
  | .mem cls md sz => .ofNat 8 (32 * md.ctorIdx + 8 * sz.ctorIdx + cls.ctorIdx)
  | .alu .w32 op s => .ofNat 8 (16 * op.ctorIdx + 8 * s.ctorIdx + 4)
  | .alu .w64 op s => .ofNat 8 (16 * op.ctorIdx + 8 * s.ctorIdx + 7)
  | .jmp .w32 op s => .ofNat 8 (16 * op.ctorIdx + 8 * s.ctorIdx + 6)
  | .jmp .w64 op s => .ofNat 8 (16 * op.ctorIdx + 8 * s.ctorIdx + 5)
  | .badMode | .badOp => 0

/-- A tag that is no decode fault is the tag of one opcode byte only. -/
theorem eq_opcode_of_tagOf : ∀ b : BitVec 8, tagOf b ≠ .badMode → tagOf b ≠ .badOp → b = (tagOf b).opcode := by decide

theorem tagOf_eq_badMode_iff : ∀ b : BitVec 8, tagOf b = .badMode ↔ inRow (b.setWidth 64) 0xe4 0xe0 = true := by decide

theorem tagOf_eq_badOp_iff : ∀ b : BitVec 8, tagOf b = .badOp ↔ inRow (b.setWidth 64) 0xe4 0xe4 = true := by decide

theorem tagOf_ne_bad_of_lt : ∀ b : BitVec 8, b.toNat < 0xe0 → tagOf b ≠ .badMode ∧ tagOf b ≠ .badOp := by decide

theorem modeField_and_e4 : ∀ b : BitVec 8, modeField (b &&& 0xe4) = modeField b := by decide

theorem tagOf_eq_memTag_of_bit_clear : ∀ b : BitVec 8, b.getLsbD 2 = false →
    tagOf b = memTag .ld b ∨ tagOf b = memTag .ldx b ∨ tagOf b = memTag .st b ∨ tagOf b = memTag .stx b := by decide

/-- The opcode bytes of one mode, of any memory class and size. -/
theorem exists_tagOf_eq_mem {b p : BitVec 8} {md : Mode} (h : b &&& 0xe4 = p) (hp : p.getLsbD 2 = false)
    (hmd : modeField p = some md) : ∃ cls, tagOf b = .mem cls md (sizeField b) := by
  have hbit : b.getLsbD 2 = false := by simpa [← h] using hp
  rw [← h, modeField_and_e4] at hmd
  have hmem (cls : MemClass) : memTag cls b = .mem cls md (sizeField b) := by rw [memTag, hmd]
  have ht := tagOf_eq_memTag_of_bit_clear b hbit
  simp only [hmem] at ht
  rcases ht with ht | ht | ht | ht <;> exact ⟨_, ht⟩

/-! ### END by its width (R78, R136), CALL by its `src` bits (R230, R234, log 14) -/

section
variable {w : Word} {c16 c32 c64 : Reg → Instr} {bad : Word → Instr}

theorem endInstr_16 (h : immField w = 16) : endInstr c16 c32 c64 bad w = c16 (dstField w) := by simp [endInstr, h]

theorem endInstr_32 (h : immField w = 32) : endInstr c16 c32 c64 bad w = c32 (dstField w) := by simp [endInstr, h]

theorem endInstr_64 (h : immField w = 64) : endInstr c16 c32 c64 bad w = c64 (dstField w) := by simp [endInstr, h]

theorem shiftRight_eq_setWidth_iff (w : Word) (v : BitVec 32) : w >>> 32 = v.setWidth 64 ↔ immField w = v := by
  have hw := w.isLt
  have hv := v.isLt
  rw [← BitVec.toNat_inj, ← BitVec.toNat_inj, immField, BitVec.toNat_ushiftRight, BitVec.extractLsb'_toNat,
    BitVec.toNat_setWidth, Nat.shiftRight_eq_div_pow]
  omega

theorem badEndWidth_iff (w : Word) :
    badEndWidth w = true ↔ immField w ≠ 16 ∧ immField w ≠ 32 ∧ immField w ≠ 64 := by
  rw [Ne, Ne, Ne, ← shiftRight_eq_setWidth_iff, ← shiftRight_eq_setWidth_iff, ← shiftRight_eq_setWidth_iff, badEndWidth,
    Bool.and_eq_true, Bool.and_eq_true, bne_iff_ne, bne_iff_ne, bne_iff_ne, and_assoc]
  rfl

theorem endInstr_bad (h : badEndWidth w = true) : endInstr c16 c32 c64 bad w = bad w := by
  obtain ⟨h16, h32, h64⟩ := (badEndWidth_iff w).1 h
  rw [endInstr, if_neg h16, if_neg h32, if_neg h64]

/-- What holds of the row of each width, and of the row of the other widths, holds of END. -/
theorem endInstr_elim {P : Instr → Prop} (h16 : P (c16 (dstField w))) (h32 : P (c32 (dstField w)))
    (h64 : P (c64 (dstField w))) (hbad : badEndWidth w = true → P (bad w)) : P (endInstr c16 c32 c64 bad w) := by
  unfold endInstr
  split
  · exact h16
  split
  · exact h32
  split
  · exact h64
  · exact hbad ((badEndWidth_iff w).2 ⟨‹_›, ‹_›, ‹_›⟩)

theorem callInstr_src1 (h12 : w.getLsbD 12 = true) : callInstr w = .callSrc1 w := if_pos h12

theorem callInstr_src2 (h12 : w.getLsbD 12 = false) (h13 : w.getLsbD 13 = true) : callInstr w = .callSrc2 w := by
  rw [callInstr, h12, h13]
  rfl

theorem callInstr_src4 (h12 : w.getLsbD 12 = false) (h13 : w.getLsbD 13 = false) (h14 : w.getLsbD 14 = true) :
    callInstr w = .callSrc4 w := by
  rw [callInstr, h12, h13, h14]
  rfl

theorem callInstr_src8 (h12 : w.getLsbD 12 = false) (h13 : w.getLsbD 13 = false) (h14 : w.getLsbD 14 = false)
    (h15 : w.getLsbD 15 = true) : callInstr w = .callSrc8 w := by
  rw [callInstr, h12, h13, h14, h15]
  rfl

/-- With `src` 0 the word is a CALL of its immediate (R230). -/
theorem callInstr_src0 (h : srcField w = 0) : callInstr w = .call (immField w) := by
  obtain ⟨h12, h13, h14, h15⟩ := Machine.srcField_zero_bits w (by rw [← Machine.srcField_val, h]; rfl)
  rw [callInstr, h12, h13, h14, h15]
  rfl

end

/-! ### What is decoded is well-formed -/

section
variable {w w2 : Word}

theorem callInstr_wellFormed (h : opcodeByte w = 0x85) : (callInstr w).wellFormed = true := by
  have hop : inRow w 0xff 0x85 = true := inRow_of_opcodeByte h rfl rfl
  unfold callInstr
  split
  · exact inRow_or hop (inRow_of_bit_set ‹_›)
  have hop := inRow_or hop (inRow_of_bit_clear (eq_false_of_ne_true ‹_›))
  split
  · exact inRow_or hop (inRow_of_bit_set ‹_›)
  have hop := inRow_or hop (inRow_of_bit_clear (eq_false_of_ne_true ‹_›))
  split
  · exact inRow_or hop (inRow_of_bit_set ‹_›)
  have hop := inRow_or hop (inRow_of_bit_clear (eq_false_of_ne_true ‹_›))
  split
  · exact inRow_or hop (inRow_of_bit_set ‹_›)
  · rfl

theorem memInstr_wellFormed {cls : MemClass} {md : Mode} {sz : Size} (h : opcodeByte w = (Tag.mem cls md sz).opcode) :
    (memInstr w w2 cls md sz).wellFormed = true := by
  cases md
  case imm =>
    cases cls <;> cases sz
    case ld.dw => rfl
    all_goals exact inRow_of_opcodeByte h rfl rfl
  case mem =>
    cases cls
    case ld => cases sz <;> exact inRow_of_opcodeByte h rfl rfl
    all_goals cases sz <;> rfl
  all_goals cases cls <;> cases sz <;> exact inRow_of_opcodeByte h rfl rfl

theorem aluInstr_wellFormed {width : Width} {op : AluOp} {s : SrcKind}
    (h : opcodeByte w = (Tag.alu width op s).opcode) : (aluInstr w width op s).wellFormed = true := by
  cases op
  case neg =>
    cases s
    · cases width <;> rfl
    · cases width <;> exact inRow_of_opcodeByte h rfl rfl
  case byteOrder =>
    cases width <;> cases s <;>
      exact endInstr_elim (P := (·.wellFormed = true)) rfl rfl rfl fun hw =>
        Bool.and_eq_true_iff.2 ⟨inRow_of_opcodeByte h rfl rfl, hw⟩
  all_goals cases width <;> cases s <;> rfl

theorem jmpInstr_wellFormed {width : Width} {op : JmpOp} {s : SrcKind}
    (h : opcodeByte w = (Tag.jmp width op s).opcode) : (jmpInstr w width op s).wellFormed = true := by
  cases width <;> cases op
  case w64.call =>
    cases s
    · exact callInstr_wellFormed h
    · exact inRow_of_opcodeByte h rfl rfl
  case w64.ja | w64.exit =>
    cases s
    · rfl
    · exact inRow_of_opcodeByte h rfl rfl
  case w32.ja | w32.call | w32.exit => cases s <;> exact inRow_of_opcodeByte h rfl rfl
  all_goals cases s <;> rfl

end

/-- The instruction of the tag that a word's opcode byte gives is well-formed. -/
theorem instrOf_tagOf_wellFormed (w w2 : Word) : (instrOf (tagOf (opcodeByte w)) w w2).wellFormed = true := by
  have hb := eq_opcode_of_tagOf (opcodeByte w)
  cases ht : tagOf (opcodeByte w) with
  | mem cls md sz => exact memInstr_wellFormed (ht ▸ hb (by simp [ht]) (by simp [ht]))
  | alu width op s => exact aluInstr_wellFormed (ht ▸ hb (by simp [ht]) (by simp [ht]))
  | jmp width op s => exact jmpInstr_wellFormed (ht ▸ hb (by simp [ht]) (by simp [ht]))
  | badMode => exact inRow_of_opcodeByte rfl rfl ((tagOf_eq_badMode_iff _).1 ht)
  | badOp => exact inRow_of_opcodeByte rfl rfl ((tagOf_eq_badOp_iff _).1 ht)

end Sys2Proof

namespace Sys2Proof.Machine

/-! ### The decoder by the opcode byte (R80, R84) -/

/-- What a list of words decodes to is the instruction of its first opcode byte's tag. -/
theorem exists_of_decode_eq_ok {ws : List Word} {i : Instr} (h : decode ws = .ok i) :
    ∃ w rest w2, ws = w :: rest ∧ i = instrOf (tagOf (opcodeByte w)) w w2 := by
  cases ws with
  | nil => cases h
  | cons w rest =>
    dsimp only [decode] at h
    split at h
    · cases rest with
      | nil => cases h
      | cons w2 rest => cases h; exact ⟨w, _, w2, rfl, rfl⟩
    · cases h; exact ⟨w, rest, 0, rfl, rfl⟩

/-- Settles O26: a narrow word decodes by its opcode byte alone, a wide one by its second word's upper half. -/
theorem onlyOpcode18TakesTwoSlots : Obligations.OnlyOpcode18TakesTwoSlots := by
  refine ⟨fun w rest hw => ?_, fun w hw => decode_wide_alone (opcodeByte_eq hw), fun w w2 v2 rest rest' hw h2 => ?_⟩
  · have hop : opcodeByte w ≠ 0x18 := fun h => hw (by rw [← opcodeByte_toNat, h]; rfl)
    rw [decode_narrow rest rfl hop, decode_narrow [] rfl hop]
  · have himm : immField w2 = immField v2 := BitVec.eq_of_toNat_eq (by rw [immField_toNat, immField_toNat, h2])
    rw [decode_wide w2 rest (opcodeByte_eq hw), decode_wide v2 rest' (opcodeByte_eq hw), himm]

/-- Settles O27: the two ways to decode, and the tag of the opcode byte, whatever the second word. -/
theorem decoderIsTotalAndWellFormed : Obligations.DecoderIsTotalAndWellFormed := by
  refine ⟨fun w w2 rest => ?_, fun ws i h => ?_⟩
  · by_cases hop : opcodeByte w = 0x18
    · exact ⟨_, decode_wide w2 rest hop⟩
    · exact ⟨_, decode_narrow (w2 :: rest) rfl hop⟩
  · obtain ⟨w, -, w2, -, rfl⟩ := exists_of_decode_eq_ok h
    exact instrOf_tagOf_wellFormed w w2

/-! ### Decode faults (R81) -/

/-- The instruction is one of the two decode-fault rows. -/
def isDecodeFault : Instr → Bool
  | .faultMode7 _ | .faultOp14Or15 _ => true
  | _ => false

section
variable (w w2 : Word)

theorem isDecodeFault_callInstr : isDecodeFault (callInstr w) = false := by
  unfold callInstr
  iterate 4 (split; · rfl)
  rfl

theorem isDecodeFault_memInstr (cls : MemClass) (md : Mode) (sz : Size) :
    isDecodeFault (memInstr w w2 cls md sz) = false := by
  fun_cases memInstr w w2 cls md sz <;> rfl

theorem isDecodeFault_aluInstr (width : Width) (op : AluOp) (s : SrcKind) :
    isDecodeFault (aluInstr w width op s) = false := by
  cases op
  case byteOrder =>
    cases width <;> cases s <;>
      exact endInstr_elim (P := (isDecodeFault · = false)) rfl rfl rfl fun _ => rfl
  all_goals cases width <;> cases s <;> rfl

theorem isDecodeFault_jmpInstr (width : Width) (op : JmpOp) (s : SrcKind) :
    isDecodeFault (jmpInstr w width op s) = false := by
  cases width <;> cases op
  case w64.call =>
    cases s
    · exact isDecodeFault_callInstr w
    · rfl
  all_goals cases s <;> rfl

theorem isDecodeFault_instrOf {t : Tag} (h1 : t ≠ .badMode) (h2 : t ≠ .badOp) :
    isDecodeFault (instrOf t w w2) = false := by
  cases t with
  | mem cls md sz => exact isDecodeFault_memInstr w w2 cls md sz
  | alu width op s => exact isDecodeFault_aluInstr w width op s
  | jmp width op s => exact isDecodeFault_jmpInstr w width op s
  | badMode => exact absurd rfl h1
  | badOp => exact absurd rfl h2

end

theorem isDecodeFault_of_decode {w : Word} {rest : List Word} {i : Instr} (hw : bitsOf w 0 8 < 0xe0)
    (h : decode (w :: rest) = .ok i) : isDecodeFault i = false := by
  obtain ⟨_, _, w2, he, rfl⟩ := exists_of_decode_eq_ok h
  cases he
  obtain ⟨h1, h2⟩ := tagOf_ne_bad_of_lt (opcodeByte w) (by rwa [opcodeByte_toNat])
  exact isDecodeFault_instrOf w w2 h1 h2

/-- Settles O25: below 0xe0 the tag is no decode fault, and the tables give no fault row for any other tag. -/
theorem decodeFaultsAreExactlyE0ToFF : Obligations.DecodeFaultsAreExactlyE0ToFF := by
  refine ⟨fun w rest => decode_badMode w rest, fun w rest => decode_badOp w rest, fun w => ?_, fun w v rest hw => ?_,
    fun w s => ⟨aborts_of rfl rfl, aborts_of rfl rfl⟩⟩
  · obtain ⟨hcls, hop, hmd⟩ := opcodeByte_fields w
    have hlt := (opcodeByte w).isLt
    rw [← opcodeByte_toNat]
    omega
  · exact ⟨fun h => (nomatch isDecodeFault_of_decode hw h), fun h => (nomatch isDecodeFault_of_decode hw h)⟩

/-! ### Decoding what was encoded (R70, R71) -/

/-- A packed word decodes to what its tag makes of a word with these fields. -/
theorem decode_pack {b : BitVec 8} {dst src : Reg} {off : BitVec 16} {imm : BitVec 32} {i : Instr} (rest : List Word)
    (hn : b ≠ 0x18)
    (h : ∀ w, dstField w = dst → srcField w = src → offField w = off → immField w = imm → instrOf (tagOf b) w 0 = i) :
    decode ([pack b dst src off imm] ++ rest) = .ok i := by
  rw [← h (pack b dst src off imm) (by simp) (by simp) (by simp) (by simp)]
  exact decode_narrow rest (by simp) hn

/-- A word of a row that fixes the whole opcode byte decodes by it. -/
theorem decode_of_inRow {w m p : Word} (rest : List Word) (h : inRow w m p = true) (hm : m.setWidth 8 = 0xff)
    (hn : p.setWidth 8 ≠ 0x18) : decode ([w] ++ rest) = .ok (instrOf (tagOf (p.setWidth 8)) w 0) :=
  decode_narrow rest (opcodeByte_of_inRow h hm) hn

theorem decode_of_tagOf {w : Word} {t : Tag} (rest : List Word) (ht : tagOf (opcodeByte w) = t)
    (hn : t ≠ .mem .ld .imm .dw) : decode ([w] ++ rest) = .ok (instrOf t w 0) := by
  have hop : opcodeByte w ≠ 0x18 := fun h => hn (by rw [← ht, h]; rfl)
  rw [← ht]
  exact decode_narrow rest rfl hop

/-- The two halves of the wide immediate (R200). -/
theorem append_halves (v : Word) : v.extractLsb' 32 32 ++ v.setWidth 32 = v := by
  ext k hk
  simp only [BitVec.getElem_append]
  split
  · simp [*]
  · simp [show 32 + (k - 32) = k by omega, BitVec.getLsbD_eq_getElem hk]

/-- Settles O28, by what the encoding holds of the instruction: its operands, by the fields they are in (R71), or the
whole word. -/
theorem decodeInvertsEncode : Obligations.DecodeInvertsEncode := by
  intro i rest h
  cases i
  -- the operands are fields of the word, and the fields the instruction does not use are 0
  case add32K | sub32K | mul32K | div32K | or32K | and32K | lsh32K | rsh32K | mod32K | xor32K | mov32K | arsh32K |
      addK | subK | mulK | divK | orK | andK | lshK | rshK | modK | xorK | movK | arshK =>
    exact decode_pack rest (by decide) (by rintro w rfl - - rfl; rfl)
  case add32X | sub32X | mul32X | div32X | or32X | and32X | lsh32X | rsh32X | mod32X | xor32X | mov32X | arsh32X |
      addX | subX | mulX | divX | orX | andX | lshX | rshX | modX | xorX | movX | arshX =>
    exact decode_pack rest (by decide) (by rintro w rfl rfl - -; rfl)
  case neg32 | neg => exact decode_pack rest (by decide) (by rintro w rfl - - -; rfl)
  case jeqK | jgtK | jgeK | jsetK | jneK | jsgtK | jsgeK | jltK | jleK | jsltK | jsleK | jeq32K | jgt32K | jge32K |
      jset32K | jne32K | jsgt32K | jsge32K | jlt32K | jle32K | jslt32K | jsle32K | stw | sth | stb | stdw =>
    exact decode_pack rest (by decide) (by rintro w rfl - rfl rfl; rfl)
  case jeqX | jgtX | jgeX | jsetX | jneX | jsgtX | jsgeX | jltX | jleX | jsltX | jsleX | jeq32X | jgt32X | jge32X |
      jset32X | jne32X | jsgt32X | jsge32X | jlt32X | jle32X | jslt32X | jsle32X | ldxw | ldxh | ldxb | ldxdw | stxw |
      stxh | stxb | stxdw =>
    exact decode_pack rest (by decide) (by rintro w rfl rfl rfl -; rfl)
  case ja => exact decode_pack rest (by decide) (by rintro w - - rfl -; rfl)
  case exit => exact decode_pack rest (by decide) fun _ _ _ _ _ => rfl
  case call => exact decode_pack rest (by decide) (by rintro w - hsrc - rfl; exact callInstr_src0 hsrc)
  case le16 | be16 | le16Alu64 | be16Alu64 =>
    exact decode_pack rest (by decide) (by rintro w rfl - - himm; exact endInstr_16 himm)
  case le32 | be32 | le32Alu64 | be32Alu64 =>
    exact decode_pack rest (by decide) (by rintro w rfl - - himm; exact endInstr_32 himm)
  case le64 | be64 | le64Alu64 | be64Alu64 =>
    exact decode_pack rest (by decide) (by rintro w rfl - - himm; exact endInstr_64 himm)
  case lddw dst imm64 =>
    refine (decode_wide _ rest (by simp)).trans ?_
    rw [dstField_pack, immField_pack, immField_pack, append_halves]
  -- the aborting rows keep the whole word
  case faultMode7 => exact decode_of_tagOf rest ((tagOf_eq_badMode_iff _).2 ((inRow_opcodeByte rfl).trans h)) nofun
  case faultOp14Or15 => exact decode_of_tagOf rest ((tagOf_eq_badOp_iff _).2 ((inRow_opcodeByte rfl).trans h)) nofun
  case modeAbs | modeInd | modeLen | modeMsh | modeXadd =>
    obtain ⟨cls, ht⟩ := exists_tagOf_eq_mem (opcodeByte_and_of_inRow h) rfl rfl
    cases cls <;> exact decode_of_tagOf rest ht nofun
  case endWidthD4 | endWidthDC | endWidthD7 | endWidthDF =>
    obtain ⟨hrow, hbad⟩ := Bool.and_eq_true_iff.1 h
    exact (decode_of_inRow rest hrow rfl (by decide)).trans (congrArg _ (endInstr_bad hbad))
  case callSrc1 =>
    have h12 := getLsbD_of_inRow (k := 12) h rfl
    exact (decode_of_inRow rest h rfl (by decide)).trans (congrArg _ (callInstr_src1 h12))
  case callSrc2 =>
    have h12 := getLsbD_of_inRow (k := 12) h rfl
    have h13 := getLsbD_of_inRow (k := 13) h rfl
    exact (decode_of_inRow rest h rfl (by decide)).trans (congrArg _ (callInstr_src2 h12 h13))
  case callSrc4 =>
    have h12 := getLsbD_of_inRow (k := 12) h rfl
    have h13 := getLsbD_of_inRow (k := 13) h rfl
    have h14 := getLsbD_of_inRow (k := 14) h rfl
    exact (decode_of_inRow rest h rfl (by decide)).trans (congrArg _ (callInstr_src4 h12 h13 h14))
  case callSrc8 =>
    have h12 := getLsbD_of_inRow (k := 12) h rfl
    have h13 := getLsbD_of_inRow (k := 13) h rfl
    have h14 := getLsbD_of_inRow (k := 14) h rfl
    have h15 := getLsbD_of_inRow (k := 15) h rfl
    exact (decode_of_inRow rest h rfl (by decide)).trans (congrArg _ (callInstr_src8 h12 h13 h14 h15))
  all_goals exact decode_of_inRow rest h rfl (by decide)

/-- Settles O29, by running the decoder on the eleven encodings. -/
theorem writtenOutWordsDecode : Obligations.WrittenOutWordsDecode := by
  unfold Obligations.WrittenOutWordsDecode
  decide

end Sys2Proof.Machine

namespace Sys2Proof.Machine

/-! ## The ALU classes: values, encodings, and the upper half of the destination -/

/-! ### Value computations, as numbers -/

/-- Subtraction wraps at the width (R108, R109). -/
theorem toNat_sub_wrap {n : Nat} (a b : BitVec n) : (a - b).toNat = (a.toNat + 2 ^ n - b.toNat) % 2 ^ n := by
  rw [BitVec.toNat_sub', Nat.add_sub_assoc b.isLt.le]

theorem lsh32_toNat (a b : BitVec 32) : (lsh32 a b).toNat = a.toNat * 2 ^ (b.toNat % 32) % 2 ^ 32 := by
  rw [lsh32, shiftAmount32_eq, BitVec.toNat_shiftLeft, Nat.shiftLeft_eq]

theorem lsh64_toNat (a b : Word) : (lsh64 a b).toNat = a.toNat * 2 ^ (b.toNat % 64) % 2 ^ 64 := by
  rw [lsh64, shiftAmount64_eq, BitVec.toNat_shiftLeft, Nat.shiftLeft_eq]

theorem rsh32_toNat (a b : BitVec 32) : (rsh32 a b).toNat = a.toNat / 2 ^ (b.toNat % 32) := by
  rw [rsh32, shiftAmount32_eq, BitVec.toNat_ushiftRight, Nat.shiftRight_eq_div_pow]

theorem rsh64_toNat (a b : Word) : (rsh64 a b).toNat = a.toNat / 2 ^ (b.toNat % 64) := by
  rw [rsh64, shiftAmount64_eq, BitVec.toNat_ushiftRight, Nat.shiftRight_eq_div_pow]

theorem arsh32_toNat (a b : BitVec 32) :
    (arsh32 a b).toNat = (signedOf 32 a.toNat / 2 ^ (b.toNat % 32) % 2 ^ 32).toNat := by
  rw [arsh32, shiftAmount32_eq, sshiftRight_toNat (by decide)]

theorem arsh64_toNat (a b : Word) :
    (arsh64 a b).toNat = (signedOf 64 a.toNat / 2 ^ (b.toNat % 64) % 2 ^ 64).toNat := by
  rw [arsh64, shiftAmount64_eq, sshiftRight_toNat (by decide)]

/-! ### The rules, each from its row of the opcode map, its arm of `exec` and its value -/

/-- `decodesAs_op` for a written-out opcode byte: the decoder's tables give the row by evaluation. -/
theorem decodesAs_row {op : Nat} {c : Reg → Reg → BitVec 16 → BitVec 32 → Instr} (hb : op < 256 := by decide)
    (hn : op ≠ 0x18 := by decide)
    (h : ∀ w, instrOf (tagOf (BitVec.ofNat 8 op)) w 0 = c (dstField w) (srcField w) (offField w) (immField w) := by
      exact fun _ => rfl) :
    DecodesAs op c :=
  decodesAs_op hb hn h

/-- Settles O1: the operation of each row is a `BitVec` operation on 32 bits, whose value the library gives. -/
theorem alu32ArithmeticAndLogic : Obligations.Alu32ArithmeticAndLogic :=
  ⟨aluRule32_of (· + ·) decodesAs_row decodesAs_row (fun _ _ _ => rfl) (fun _ _ _ => rfl) BitVec.toNat_add,
    aluRule32_of (· - ·) decodesAs_row decodesAs_row (fun _ _ _ => rfl) (fun _ _ _ => rfl) toNat_sub_wrap,
    aluRule32_of (· * ·) decodesAs_row decodesAs_row (fun _ _ _ => rfl) (fun _ _ _ => rfl) BitVec.toNat_mul,
    aluRule32_of (· ||| ·) decodesAs_row decodesAs_row (fun _ _ _ => rfl) (fun _ _ _ => rfl) BitVec.toNat_or,
    aluRule32_of (· &&& ·) decodesAs_row decodesAs_row (fun _ _ _ => rfl) (fun _ _ _ => rfl) BitVec.toNat_and,
    aluRule32_of (· ^^^ ·) decodesAs_row decodesAs_row (fun _ _ _ => rfl) (fun _ _ _ => rfl) BitVec.toNat_xor,
    aluRule32_of (fun _ b => b) decodesAs_row decodesAs_row (fun _ _ _ => rfl) (fun _ _ _ => rfl) fun _ _ => rfl⟩

/-- Settles O2, as O1 at 64 bits; `aluRule64_of` reads the K operand sign-extended. -/
theorem alu64ArithmeticAndLogic : Obligations.Alu64ArithmeticAndLogic :=
  ⟨aluRule64_of (· + ·) decodesAs_row decodesAs_row (fun _ _ _ => rfl) (fun _ _ _ => rfl) BitVec.toNat_add,
    aluRule64_of (· - ·) decodesAs_row decodesAs_row (fun _ _ _ => rfl) (fun _ _ _ => rfl) toNat_sub_wrap,
    aluRule64_of (· * ·) decodesAs_row decodesAs_row (fun _ _ _ => rfl) (fun _ _ _ => rfl) BitVec.toNat_mul,
    aluRule64_of (· ||| ·) decodesAs_row decodesAs_row (fun _ _ _ => rfl) (fun _ _ _ => rfl) BitVec.toNat_or,
    aluRule64_of (· &&& ·) decodesAs_row decodesAs_row (fun _ _ _ => rfl) (fun _ _ _ => rfl) BitVec.toNat_and,
    aluRule64_of (· ^^^ ·) decodesAs_row decodesAs_row (fun _ _ _ => rfl) (fun _ _ _ => rfl) BitVec.toNat_xor,
    aluRule64_of (fun _ b => b) decodesAs_row decodesAs_row (fun _ _ _ => rfl) (fun _ _ _ => rfl) fun _ _ => rfl⟩

/-- Settles O3: the amount is taken modulo the width (`shiftAmount32_eq`, `shiftAmount64_eq`), and a shift right is a
division. -/
theorem shiftsTakeAmountModuloWidth : Obligations.ShiftsTakeAmountModuloWidth :=
  ⟨aluRule32_of lsh32 decodesAs_row decodesAs_row (fun _ _ _ => rfl) (fun _ _ _ => rfl) lsh32_toNat,
    aluRule32_of rsh32 decodesAs_row decodesAs_row (fun _ _ _ => rfl) (fun _ _ _ => rfl) rsh32_toNat,
    aluRule32_of arsh32 decodesAs_row decodesAs_row (fun _ _ _ => rfl) (fun _ _ _ => rfl) arsh32_toNat,
    aluRule64_of lsh64 decodesAs_row decodesAs_row (fun _ _ _ => rfl) (fun _ _ _ => rfl) lsh64_toNat,
    aluRule64_of rsh64 decodesAs_row decodesAs_row (fun _ _ _ => rfl) (fun _ _ _ => rfl) rsh64_toNat,
    aluRule64_of arsh64 decodesAs_row decodesAs_row (fun _ _ _ => rfl) (fun _ _ _ => rfl) arsh64_toNat⟩

/-- Settles O4: the two NEG rows write the negation at their width, and the other rows keep the word and abort with it. -/
theorem negNegatesAndNegXAborts : Obligations.NegNegatesAndNegXAborts := by
  refine ⟨decodesAs_row, decodesAs_row, fun s dst => ⟨?neg32, ?neg⟩,
    abortsAs_op (by decide) (by decide) (fun _ => rfl) fun _ _ => rfl,
    abortsAs_op (by decide) (by decide) (fun _ => rfl) fun _ _ => rfl, fun w rest hcls hop => ⟨?_, fun s => ?_⟩⟩
  case neg32 => exact writesReg_of32 (v := -low32 s dst) rfl (by rw [BitVec.toNat_neg, low32_toNat])
  case neg => exact writesReg_of (v := -s.reg dst) rfl (BitVec.toNat_neg _)
  · exact decode_badOp w rest (by omega) hop
  · exact aborts_of rfl rfl

/-- Settles O5: `divRule32_of` and `divRule64_of` split on the divisor being zero. -/
theorem divModUnsignedAndZeroTerminates : Obligations.DivModUnsignedAndZeroTerminates :=
  ⟨divRule32_of (· / ·) decodesAs_row decodesAs_row (fun _ _ _ => rfl) (fun _ _ _ => rfl) fun _ _ => BitVec.toNat_udiv,
    divRule32_of (· % ·) decodesAs_row decodesAs_row (fun _ _ _ => rfl) (fun _ _ _ => rfl) fun _ _ => BitVec.toNat_umod,
    divRule64_of (· / ·) decodesAs_row decodesAs_row (fun _ _ _ => rfl) (fun _ _ _ => rfl) fun _ _ => BitVec.toNat_udiv,
    divRule64_of (· % ·) decodesAs_row decodesAs_row (fun _ _ _ => rfl) (fun _ _ _ => rfl) fun _ _ => BitVec.toNat_umod⟩

/-- Settles O6: `to_le` reverses the bytes on a big-endian core, `to_be` on a little-endian one (R132). -/
theorem endConvertsByteOrder : Obligations.EndConvertsByteOrder := by
  have le (o k v) (hk : k ≤ 8) := toLittle_reordered o k hk v
  have be (o k v) (hk : k ≤ 8) := toBig_reordered o k hk v
  exact ⟨endRule_of toLittle (by decide) (by decide) (fun _ => rfl) le (fun _ _ => rfl) (fun _ _ => rfl)
      (fun _ _ => rfl) fun _ _ => rfl,
    endRule_of toBig (by decide) (by decide) (fun _ => rfl) be (fun _ _ => rfl) (fun _ _ => rfl)
      (fun _ _ => rfl) fun _ _ => rfl,
    endRule_of toLittle (by decide) (by decide) (fun _ => rfl) le (fun _ _ => rfl) (fun _ _ => rfl)
      (fun _ _ => rfl) fun _ _ => rfl,
    endRule_of toBig (by decide) (by decide) (fun _ => rfl) be (fun _ _ => rfl) (fun _ _ => rfl)
      (fun _ _ => rfl) fun _ _ => rfl⟩

/-! ### The upper half of the destination (R102) -/

section
variable {s t : State} {dst : Reg}

theorem writeReg_reg {v : Word} (h : writeReg dst v s = .next t) : t.reg dst = v := by
  cases h
  exact s.setReg_reg_same dst v

theorem writeReg32_reg_lt {v : BitVec 32} (h : writeReg32 dst v s = .next t) : (t.reg dst).toNat < 2 ^ 32 := by
  rw [writeReg_reg h, BitVec.toNat_setWidth]
  exact (Nat.mod_le _ _).trans_lt v.isLt

/-- A division by zero ends the run; any other writes a 32-bit result. -/
theorem divide32_reg_lt {f : BitVec 32 → BitVec 32 → BitVec 32} {b : BitVec 32} (h : divide32 f dst b s = .next t)
    (hrun : t.status = .running) : (t.reg dst).toNat < 2 ^ 32 := by
  unfold divide32 at h
  split at h
  · cases h
    cases hrun
  · exact writeReg32_reg_lt h

/-- A width of at most four bytes leaves the upper half zero, whether the bytes are reversed or not. -/
theorem Reordered.lt_two_pow_32 {rev : Bool} {k old v : Nat} (h : Reordered rev k old v) (hk : k ≤ 4) : v < 2 ^ 32 :=
  h.1.trans_le (Nat.pow_le_pow_right (by decide) hk : 256 ^ k ≤ 256 ^ 4)

theorem writeReg_toLittle_reg_lt {o : ByteOrder} {k : Nat} {v : Word} (hk : k ≤ 4)
    (h : writeReg dst (toLittle o k v) s = .next t) : (t.reg dst).toNat < 2 ^ 32 := by
  rw [writeReg_reg h]
  exact (toLittle_reordered o k (by omega) v).lt_two_pow_32 hk

theorem writeReg_toBig_reg_lt {o : ByteOrder} {k : Nat} {v : Word} (hk : k ≤ 4)
    (h : writeReg dst (toBig o k v) s = .next t) : (t.reg dst).toNat < 2 ^ 32 := by
  rw [writeReg_reg h]
  exact (toBig_reordered o k (by omega) v).lt_two_pow_32 hk

end

/-- A class-4 result is zero-extended, and END of width 16 or 32 has at most four bytes. -/
theorem exec_reg_lt_of_masksUpperHalf {i : Instr} {dst : Reg} {s t : State} (hm : masksUpperHalf i = true)
    (hd : destOf i = some dst) (h : exec i s = .next t) (hrun : t.status = .running) :
    (t.reg dst).toNat < 2 ^ 32 := by
  cases i
  case add32K | add32X | sub32K | sub32X | mul32K | mul32X | or32K | or32X | and32K | and32X | lsh32K | lsh32X |
      rsh32K | rsh32X | neg32 | xor32K | xor32X | mov32K | mov32X | arsh32K | arsh32X =>
    cases hd
    exact writeReg32_reg_lt h
  case div32K | div32X | mod32K | mod32X =>
    cases hd
    exact divide32_reg_lt h hrun
  case le16 | le32 =>
    cases hd
    exact writeReg_toLittle_reg_lt (by decide) h
  case be16 | be32 =>
    cases hd
    exact writeReg_toBig_reg_lt (by decide) h
  all_goals cases hm -- not an operation R102 speaks of

/-- On a little-endian core, BE of width 64 moves byte 0 to byte 7 (R132). -/
theorem exists_be64_upper_half (dst : Reg) :
    ∃ s t, s.status = .running ∧ exec (.be64 dst) s = .next t ∧ 2 ^ 32 ≤ (t.reg dst).toNat := by
  refine ⟨State.reset.setReg dst 1, _, rfl, rfl, ?_⟩
  rw [State.advance_reg, State.setReg_reg_same, State.setReg_reg_same, State.setReg_params]
  decide

/-- Settles O7. That the core runs before the step is not needed: only a division by zero ends the run. -/
theorem class4ClearsUpperHalf : Obligations.Class4ClearsUpperHalf :=
  ⟨fun _ _ _ _ hm hd _ h hrun => exec_reg_lt_of_masksUpperHalf hm hd h hrun, exists_be64_upper_half⟩

end Sys2Proof.Machine

namespace Sys2Proof.Machine

/-! ## The jump classes: conditions, jumps, and the encodings with no rule -/

/-! ### The conditions of R162, as statements about numbers -/

section
variable {n : Nat} (a b : BitVec n)

theorem condEq_iff : condEq a b = true ↔ a.toNat = b.toNat :=
  beq_iff_eq.trans BitVec.toNat_inj.symm

theorem condNe_iff : condNe a b = true ↔ a.toNat ≠ b.toNat :=
  bne_iff_ne.trans (not_congr BitVec.toNat_inj.symm)

theorem condGt_iff : condGt a b = true ↔ a.toNat > b.toNat := BitVec.ult_iff_lt

theorem condGe_iff : condGe a b = true ↔ a.toNat ≥ b.toNat := BitVec.ule_iff_le

theorem condLt_iff : condLt a b = true ↔ a.toNat < b.toNat := BitVec.ult_iff_lt

theorem condLe_iff : condLe a b = true ↔ a.toNat ≤ b.toNat := BitVec.ule_iff_le

variable (hn : 0 < n)
include hn

theorem condSlt_iff : condSlt a b = true ↔ signedOf n a.toNat < signedOf n b.toNat := by
  rw [condSlt, BitVec.slt_iff_toInt_lt, toInt_eq_signedOf a hn, toInt_eq_signedOf b hn]

theorem condSle_iff : condSle a b = true ↔ signedOf n a.toNat ≤ signedOf n b.toNat := by
  rw [condSle, BitVec.sle_iff_toInt_le, toInt_eq_signedOf a hn, toInt_eq_signedOf b hn]

theorem condSgt_iff : condSgt a b = true ↔ signedOf n a.toNat > signedOf n b.toNat := condSlt_iff b a hn

theorem condSge_iff : condSge a b = true ↔ signedOf n a.toNat ≥ signedOf n b.toNat := condSle_iff b a hn

end

/-! ### The rules, each from its rows of the opcode map and its condition -/

section
variable {opK opX : Nat} {cK : Reg → BitVec 32 → BitVec 16 → Instr} {cX : Reg → Reg → BitVec 16 → Instr}
  {cond : Nat → Nat → Prop}

/-- `jumpRule64_of` for two written-out opcode bytes: the decoder's tables and the arms of `exec` give the rows and the
branch by evaluation, so that only the condition `g` is left to relate to `cond`. -/
theorem jumpRule64_row (g : Word → Word → Bool) (hg : ∀ a b, g a b = true ↔ cond a.toNat b.toNat)
    (hk : DecodesAs opK (fun dst _ off imm => cK dst imm off) := by exact decodesAs_row)
    (hx : DecodesAs opX (fun dst src off _ => cX dst src off) := by exact decodesAs_row)
    (eK : ∀ s dst imm off, exec (cK dst imm off) s = branch (g (s.reg dst) (opnd64K imm)) off s := by
      exact fun _ _ _ _ => rfl)
    (eX : ∀ s dst src off, exec (cX dst src off) s = branch (g (s.reg dst) (opnd64X s src)) off s := by
      exact fun _ _ _ _ => rfl) :
    JumpRule64 opK opX cK cX cond :=
  jumpRule64_of g hk hx eK eX hg

/-- `jumpRule32_of`, in the same way. -/
theorem jumpRule32_row (g : BitVec 32 → BitVec 32 → Bool) (hg : ∀ a b, g a b = true ↔ cond a.toNat b.toNat)
    (hk : DecodesAs opK (fun dst _ off imm => cK dst imm off) := by exact decodesAs_row)
    (hx : DecodesAs opX (fun dst src off _ => cX dst src off) := by exact decodesAs_row)
    (eK : ∀ s dst imm off, exec (cK dst imm off) s = branch (g (low32 s dst) (opnd32K imm)) off s := by
      exact fun _ _ _ _ => rfl)
    (eX : ∀ s dst src off, exec (cX dst src off) s = branch (g (low32 s dst) (opnd32X s src)) off s := by
      exact fun _ _ _ _ => rfl) :
    JumpRule32 opK opX cK cX cond :=
  jumpRule32_of g hk hx eK eX hg

end

/-- Settles O8: the condition of each row is one of R162 on 64 bits; `jumpRule64_of` reads the K operand
sign-extended. -/
theorem jumps64Compare : Obligations.Jumps64Compare :=
  ⟨jumpRule64_row condEq condEq_iff,
    jumpRule64_row condGt condGt_iff,
    jumpRule64_row condGe condGe_iff,
    jumpRule64_row condSet condSet_iff,
    jumpRule64_row condNe condNe_iff,
    jumpRule64_row condSgt fun a b => condSgt_iff a b (by decide),
    jumpRule64_row condSge fun a b => condSge_iff a b (by decide),
    jumpRule64_row condLt condLt_iff,
    jumpRule64_row condLe condLe_iff,
    jumpRule64_row condSlt fun a b => condSlt_iff a b (by decide),
    jumpRule64_row condSle fun a b => condSle_iff a b (by decide)⟩

/-- Settles O9, as O8 on the low 32 bits of the registers; the K operand is the immediate as it stands. -/
theorem jumps32Compare : Obligations.Jumps32Compare :=
  ⟨jumpRule32_row condEq condEq_iff,
    jumpRule32_row condGt condGt_iff,
    jumpRule32_row condGe condGe_iff,
    jumpRule32_row condSet condSet_iff,
    jumpRule32_row condNe condNe_iff,
    jumpRule32_row condSgt fun a b => condSgt_iff a b (by decide),
    jumpRule32_row condSge fun a b => condSge_iff a b (by decide),
    jumpRule32_row condLt condLt_iff,
    jumpRule32_row condLe condLe_iff,
    jumpRule32_row condSlt fun a b => condSlt_iff a b (by decide),
    jumpRule32_row condSle fun a b => condSle_iff a b (by decide)⟩

/-! ### The encodings with no rule, JA and EXIT -/

/-- `abortsAs_op` for a written-out opcode byte, as `decodesAs_row`. -/
theorem abortsAs_row {op : Nat} {c : Word → Instr} {f : FaultCode} (hb : op < 256 := by decide)
    (hn : op ≠ 0x18 := by decide)
    (h : ∀ w, instrOf (tagOf (BitVec.ofNat 8 op)) w 0 = c w := by exact fun _ => rfl)
    (e : ∀ w s, exec (c w) s = raise f w s := by exact fun _ _ => rfl) :
    AbortsAs op c f :=
  abortsAs_op hb hn h e

/-- Settles O12: nine rows that keep the word and abort with it; op codes 14 and 15 by `decode_badOp`, for any class
from ALU up. -/
theorem jumpEncodingsWithNoRuleAbort : Obligations.JumpEncodingsWithNoRuleAbort := by
  refine ⟨abortsAs_row, abortsAs_row, abortsAs_row, abortsAs_row, abortsAs_row, abortsAs_row, abortsAs_row,
    abortsAs_row, abortsAs_row, fun w rest hcls hop => ⟨?_, fun s => ?_⟩⟩
  · exact decode_badOp w rest (by omega) hop
  · exact aborts_of rfl rfl

/-- JA is the branch that is always taken (R164). -/
theorem exec_ja (off : BitVec 16) (s : State) : exec (.ja off) s = branch true off s := rfl

/-- Settles O10. -/
theorem jaJumpsAlways : Obligations.JaJumpsAlways :=
  ⟨decodesAs_row, abortsAs_row, fun s off => jumps_of (exec_ja off s) (iff_of_true rfl trivial)⟩

/-- Settles O11. -/
theorem exitYieldsRegisterZero : Obligations.ExitYieldsRegisterZero :=
  ⟨decodesAs_row, abortsAs_row, fun _ => terminates_of rfl⟩

end Sys2Proof.Machine

namespace Sys2Proof.Machine

/-! ## Loads and stores: the wide immediate, the accesses by width, and the encodings with no rule -/

/-- Settles O13. In the last slot the fetch finds no second word, which `fetchOutsideProgramAborts` settles. -/
theorem lddwLoadsSixtyFourBits : Obligations.LddwLoadsSixtyFourBits := by
  refine ⟨fun w w2 rest dst hop hdst => ?_, fun s dst imm64 => writesRegBy_of rfl rfl, fetchOutsideProgramAborts.2⟩
  have hd : dst = dstField w := Fin.ext (by rw [dstField_val, hdst])
  rw [decode_wide w2 rest (opcodeByte_eq hop), imm64_eq, hd]

/-- Settles O14: the four widths of the one `load`, whose three ways `loadRule_of` puts in the terms of the rule. -/
theorem loadsReadMemory : Obligations.LoadsReadMemory :=
  ⟨loadRule_of (by decide) decodesAs_row fun _ _ _ _ => rfl,
    loadRule_of (by decide) decodesAs_row fun _ _ _ _ => rfl,
    loadRule_of (by decide) decodesAs_row fun _ _ _ _ => rfl,
    loadRule_of (by decide) decodesAs_row fun _ _ _ _ => rfl⟩

/-- A row of class ST follows its rule if its meaning is the store of the sign-extended immediate (R206). -/
theorem storeImmRule_of {op n : Nat} {c : Reg → BitVec 16 → BitVec 32 → Instr}
    (h : DecodesAs op fun dst _ off imm => c dst off imm)
    (e : ∀ s dst off imm, exec (c dst off imm) s = store n dst off (imm.signExtend 64) s) : StoreImmRule op n c :=
  ⟨h, fun s dst off imm => stores_of (signExtend64_toNat imm) (e s dst off imm)⟩

/-- A row of class STX follows its rule if its meaning is the store of the source register (R211). -/
theorem storeRegRule_of {op n : Nat} {c : Reg → BitVec 16 → Reg → Instr}
    (h : DecodesAs op fun dst src off _ => c dst off src)
    (e : ∀ s dst off src, exec (c dst off src) s = store n dst off (s.reg src) s) : StoreRegRule op n c :=
  ⟨h, fun s dst off src => stores_of rfl (e s dst off src)⟩

/-- Settles O15. -/
theorem storesOfImmediates : Obligations.StoresOfImmediates :=
  ⟨storeImmRule_of decodesAs_row fun _ _ _ _ => rfl,
    storeImmRule_of decodesAs_row fun _ _ _ _ => rfl,
    storeImmRule_of decodesAs_row fun _ _ _ _ => rfl,
    storeImmRule_of decodesAs_row fun _ _ _ _ => rfl⟩

/-- Settles O16. -/
theorem storesOfRegisters : Obligations.StoresOfRegisters :=
  ⟨storeRegRule_of decodesAs_row fun _ _ _ _ => rfl,
    storeRegRule_of decodesAs_row fun _ _ _ _ => rfl,
    storeRegRule_of decodesAs_row fun _ _ _ _ => rfl,
    storeRegRule_of decodesAs_row fun _ _ _ _ => rfl⟩

/-! ### The addressing modes with no rule (R216, R217) -/

section
variable {w : Word} {md : Mode}

/-- The modes stand in the order of their numbers (R74). -/
theorem modeField_opcodeByte (h : bitsOf w 5 3 = md.ctorIdx) : modeField (opcodeByte w) = some md := by
  have hbits : ((opcodeByte w).extractLsb' 5 3).toNat = md.ctorIdx := by
    have hlt := (opcodeByte w).isLt
    rw [BitVec.extractLsb'_toNat, Nat.shiftRight_eq_div_pow, ← h, (opcodeByte_fields w).2.2]
    omega
  rw [modeField, hbits]
  cases md <;> rfl

/-- The memory classes are those whose number has bit 2 clear (R72). -/
theorem opcodeByte_bit_two_clear (h : bitsOf w 0 3 < 4) : (opcodeByte w).getLsbD 2 = false := by
  rw [(opcodeByte_fields w).1] at h
  rw [BitVec.getLsbD, Nat.testBit_eq_decide_div_mod_eq, decide_eq_false_iff_not]
  omega

/-- A word of a memory class with the mode `md`, of some class and size. -/
theorem exists_tagOf_eq_mem_of_mode (hcls : bitsOf w 0 3 < 4) (hmd : bitsOf w 5 3 = md.ctorIdx) :
    ∃ cls sz, tagOf (opcodeByte w) = .mem cls md sz := by
  have hbit : (opcodeByte w &&& 0xe4).getLsbD 2 = false := by
    rw [BitVec.getLsbD_and, opcodeByte_bit_two_clear hcls, Bool.false_and]
  obtain ⟨cls, ht⟩ := exists_tagOf_eq_mem rfl hbit ((modeField_and_e4 _).trans (modeField_opcodeByte hmd))
  exact ⟨cls, _, ht⟩

end

/-- A mode follows its rule if it has one row for all classes and sizes, which keeps the word and aborts with it. -/
theorem modeRule_of (md : Mode) {c : Word → Instr} {f : FaultCode} (hmd : md ≠ .imm)
    (h : ∀ w w2 cls sz, memInstr w w2 cls md sz = c w) (e : ∀ w s, exec (c w) s = raise f w s) :
    ModeRule md.ctorIdx c f := by
  refine ⟨fun w rest hcls hbits => ?_, fun w s => aborts_of (e w s) rfl⟩
  obtain ⟨cls, sz, ht⟩ := exists_tagOf_eq_mem_of_mode hcls hbits
  rw [← h w 0 cls sz]
  exact decode_of_tagOf rest ht fun hwide => hmd (Tag.mem.inj hwide).2.1

/-- Settles O17. -/
theorem unsupportedModesAbort : Obligations.UnsupportedModesAbort :=
  ⟨modeRule_of .abs (by decide) (fun _ _ cls _ => by cases cls <;> rfl) fun _ _ => rfl,
    modeRule_of .ind (by decide) (fun _ _ cls _ => by cases cls <;> rfl) fun _ _ => rfl,
    modeRule_of .len (by decide) (fun _ _ cls _ => by cases cls <;> rfl) fun _ _ => rfl,
    modeRule_of .msh (by decide) (fun _ _ cls _ => by cases cls <;> rfl) fun _ _ => rfl⟩

/-- Settles O18. -/
theorem xaddAborts : Obligations.XaddAborts :=
  modeRule_of .xadd (by decide) (fun _ _ cls _ => by cases cls <;> rfl) fun _ _ => rfl

/-- Settles O19: each of the nineteen opcode bytes is a row of the decoder's tables that keeps the word. -/
theorem memoryEncodingsWithNoRuleAbort : Obligations.MemoryEncodingsWithNoRuleAbort :=
  ⟨abortsAs_row, abortsAs_row, abortsAs_row, abortsAs_row, abortsAs_row, abortsAs_row, abortsAs_row, abortsAs_row,
    abortsAs_row, abortsAs_row, abortsAs_row, abortsAs_row, abortsAs_row, abortsAs_row, abortsAs_row, abortsAs_row,
    abortsAs_row, abortsAs_row, abortsAs_row⟩

end Sys2Proof.Machine

namespace Sys2Proof.Machine

/-! ## CALL: its encodings, its index, and the answers of its helper -/

section
variable {w : Word}

/-- With no bit of the field set, `src` is 0; the converse of `srcField_zero_bits`. -/
theorem bitsOf_src_eq_zero (h12 : w.getLsbD 12 = false) (h13 : w.getLsbD 13 = false) (h14 : w.getLsbD 14 = false)
    (h15 : w.getLsbD 15 = false) : bitsOf w 12 4 = 0 := by
  simp only [BitVec.getLsbD, Nat.testBit_eq_decide_div_mod_eq, decide_eq_false_iff_not] at h12 h13 h14 h15
  rw [bitsOf]
  omega

/-- The opcode byte of CALL leaves the choice of the row to the `src` bits. -/
theorem decode_call_byte (rest : List Word) (h : bitsOf w 0 8 = 0x85) : decode (w :: rest) = .ok (callInstr w) :=
  decode_narrow rest (opcodeByte_eq (b := 0x85) h) (by decide)

/-- A set `src` bit gives one of the four rows that abort (R234). -/
theorem exec_callInstr_of_src_ne_zero (h : bitsOf w 12 4 ≠ 0) (s : State) :
    exec (callInstr w) s = raise .unimplementedOpcode w s := by
  cases h12 : w.getLsbD 12 with
  | true => rw [callInstr_src1 h12]; rfl
  | false =>
  cases h13 : w.getLsbD 13 with
  | true => rw [callInstr_src2 h12 h13]; rfl
  | false =>
  cases h14 : w.getLsbD 14 with
  | true => rw [callInstr_src4 h12 h13 h14]; rfl
  | false =>
  cases h15 : w.getLsbD 15 with
  | true => rw [callInstr_src8 h12 h13 h14 h15]; rfl
  | false => exact absurd (bitsOf_src_eq_zero h12 h13 h14 h15) h

end

/-- Settles O24: the abort is that of the row, whatever the immediate and the helper table. -/
theorem callWithSourceRegisterAborts : Obligations.CallWithSourceRegisterAborts := by
  refine ⟨fun w rest hop hsrc => ⟨callInstr w, decode_call_byte rest hop, fun s => ?_⟩, abortsAs_row, fun w s =>
    ⟨aborts_of rfl rfl, aborts_of rfl rfl, aborts_of rfl rfl, aborts_of rfl rfl⟩⟩
  exact aborts_of (exec_callInstr_of_src_ne_zero hsrc s) rfl

/-! ### The index (R233) and the answer at the port (R231, R232) -/

section
variable {s t : State} {imm : BitVec 32} {k : Nat} {q : HelperRequest} {r : HelperResponse}
  {rest : List HelperResponse} {rows : List HelperRow}

/-- A legal index invokes its helper. -/
theorem exec_call_of_legal (hk : signedOf 32 imm.toNat = k) (hlt : k < s.nhelpers) :
    exec (.call imm) s = callHelper k s := by
  have hi : helperIndex imm = k := (helperIndex_eq imm).trans hk
  refine (if_neg (by omega) : execCall imm s = _).trans ?_
  rw [hi, Int.toNat_natCast]

theorem exec_call_of_not_legal (h : ¬(0 ≤ signedOf 32 imm.toNat ∧ signedOf 32 imm.toNat < s.nhelpers)) :
    exec (.call imm) s = raise .helperIndexOutOfRange (imm.signExtend 64) s := by
  rw [← helperIndex_eq] at h
  exact if_pos (by omega)

theorem takeAnswer_of_allowed (hr : s.helperRsp = r :: rest) (ha : HelperAllows s q r) :
    takeAnswer q s = some (finishCall r { s with helperRsp := rest }) := by
  rw [takeAnswer, hr]
  exact if_pos ((State.allowsAnswer_iff s q r).2 ha)

theorem takeAnswer_of_none_allowed (hn : ∀ r rest, s.helperRsp = r :: rest → ¬HelperAllows s q r) :
    takeAnswer q s = none := by
  rcases takeAnswer_cases q s with ⟨r, rest, hr, ha, -⟩ | ⟨-, e⟩
  · exact absurd ha (hn r rest hr)
  · exact e

/-- A CALL asks with the request of R231. -/
theorem callHelper_eq (k : Nat) (s : State) : callHelper k s =
    .next ((takeAnswer (requestOf k s) s).getD { s with helperReq := some (requestOf k s) }) := rfl

theorem callHelper_of_allowed (hr : s.helperRsp = r :: rest) (ha : HelperAllows s (requestOf k s) r) :
    callHelper k s = .next (finishCall r { s with helperRsp := rest }) := by
  rw [callHelper_eq, takeAnswer_of_allowed hr ha, Option.getD_some]

theorem callHelper_of_none_allowed (hn : ∀ r rest, s.helperRsp = r :: rest → ¬HelperAllows s (requestOf k s) r) :
    callHelper k s = .next { s with helperReq := some (requestOf k s) } := by
  rw [callHelper_eq, takeAnswer_of_none_allowed hn, Option.getD_none]

/-- The step of a core that waits for a helper is the completion of its CALL. -/
theorem step_of_waiting (hrun : s.status = .running) (h0 : s.startIn = none) (hq : s.helperReq = some q) :
    step s = resumeCall q s := by
  simp only [step, h0, hrun, hq, if_true]

theorem resumeCall_of_no_answer (hr : s.helperRsp = []) : resumeCall q s = .fault .helperPending := by
  rw [resumeCall, takeAnswer_of_none_allowed (by simp [hr]), hr]
  rfl

theorem resumeCall_of_forbidden (hr : s.helperRsp = r :: rest) (ha : ¬HelperAllows s q r) :
    resumeCall q s = .refused .helperAnswerForbidden := by
  rw [resumeCall, takeAnswer_of_none_allowed (by rw [hr]; rintro _ _ ⟨⟩; exact ha), hr]
  rfl

theorem resumeCall_of_allowed (hr : s.helperRsp = r :: rest) (ha : HelperAllows s q r) :
    resumeCall q s = .next (finishCall r { s with helperRsp := rest }) := by
  rw [resumeCall, takeAnswer_of_allowed hr ha]

/-- What an allowed answer leaves, some row of the helper's relation gives: the row that allows the answer. -/
theorem AnsweredBy.obeysRelation (h : AnsweredBy r rest s t) (ha : HelperAllows s q r)
    (hrows : s.helpers[q.index]? = some (.relation rows)) : ObeysRelation rows q s t := by
  obtain ⟨row, hmem, hrow⟩ := ha rows hrows
  refine ⟨row, hmem, hrow.applies, h.result ▸ hrow.result, fun ws hws a hw => ?_⟩
  rw [h.written a hw, hrow.writes ws hws a hw]

end

/-- Settles O21. -/
theorem callTakesHelperAnswer : Obligations.CallTakesHelperAnswer := by
  refine ⟨fun w rest dst off imm hF => ?_, fun s imm k r rest hk hlt hr ha => ?_⟩
  · obtain ⟨-, hsrc, -, rfl⟩ := hF.eqs
    rw [decode_call_byte rest hF.op, callInstr_src0 hsrc.symm]
  · rw [exec_call_of_legal hk hlt]
    exact ⟨_, callHelper_of_allowed hr ha, finishCall_answeredBy s r rest⟩

/-- Settles O22: the CALL that makes its request, and the three ways the waiting core goes. -/
theorem callWaitsForItsHelper : Obligations.CallWaitsForItsHelper := by
  refine ⟨fun s imm k hk hlt hn => ?_, fun s q hrun h0 hq => ?_⟩
  · rw [exec_call_of_legal hk hlt, callHelper_of_none_allowed hn]
  · rw [step_of_waiting hrun h0 hq]
    exact ⟨resumeCall_of_no_answer, fun _ _ => resumeCall_of_forbidden, fun r rest hr ha =>
      ⟨_, resumeCall_of_allowed hr ha, finishCall_answeredBy s r rest⟩⟩

/-- Settles O23: a legal index leaves the run-status registers alone both where the helper has answered and where it has
not. -/
theorem callChecksHelperIndex : Obligations.CallChecksHelperIndex := by
  refine fun s imm => ⟨fun h => aborts_of (exec_call_of_not_legal h) (signExtend64_toNat imm), fun ⟨h0, hlt⟩ => ?_⟩
  obtain ⟨k, hk⟩ := Int.eq_ofNat_of_zero_le h0
  rw [exec_call_of_legal hk (by omega), callHelper_eq]
  rcases takeAnswer_cases (requestOf k s) s with ⟨r, rest, -, -, e⟩ | ⟨-, e⟩ <;> rw [e] <;> exact ⟨_, rfl, rfl, rfl⟩

/-- Settles O47: on both routes the answer taken was allowed. -/
theorem completedCallsObeyTheRelation : Obligations.CompletedCallsObeyTheRelation := by
  refine ⟨fun s t imm k rows hk hrows h hreq => ?_, fun s t q rows hrun h0 hq hrows h => ?_⟩
  · have hlt : k < s.nhelpers := (List.getElem?_eq_some_iff.1 hrows).1
    rw [exec_call_of_legal hk hlt, callHelper_eq] at h
    rcases takeAnswer_cases (requestOf k s) s with ⟨r, rest, -, ha, e⟩ | ⟨-, e⟩ <;> rw [e] at h <;> cases h
    · exact (finishCall_answeredBy s r rest).obeysRelation ha hrows
    · cases hreq -- the request is outstanding
  · rw [step_of_waiting hrun h0 hq] at h
    rcases resumeCall_cases q s with ⟨r, rest, -, ha, e⟩ | ⟨-, e⟩ | ⟨_, _, -, -, e⟩ <;> cases e.symm.trans h
    exact ⟨rfl, (finishCall_answeredBy s r rest).obeysRelation ha hrows⟩

end Sys2Proof.Machine

namespace Sys2Proof.Machine

/-! ## The ends of a run: the step budget, aborts, terminations -/

section
variable {s t : State}

/-! ### The step budget (R262) -/

/-- A Running core that has used up its budget aborts before it fetches (R245 part 2). -/
theorem step_of_budgetSpent (hrun : s.status = .running) (h0 : s.startIn = none) (hq : s.helperReq = none)
    (hb : s.budgetSpent = true) : step s = .next (s.abort .stepBudgetExhausted (BitVec.ofNat 64 s.steps)) := by
  simp only [step, h0, if_pos hrun, hq, runStep, if_pos hb]
  rfl

/-- No shape of an instruction touches STEPS. -/
theorem Shape.steps_eq (h : Shape s t) : t.steps = s.steps := by
  cases h <;> rfl

/-- Whatever a Ready core does, it does on the state with the step counted. -/
theorem Ready.shape_countStep (h : Ready s) (hs : step s = .next t) : Shape s.countStep t := by
  rw [step_ready h] at hs
  split at hs
  · exact exec_shape hs
  · cases hs; exact .abort _ _ (by decide)

/-! ### Aborts (R241) -/

/-- A Running core refuses a start (R41), so a step of it that answers a next state had none at its port. -/
theorem startIn_eq_none_of_step (hrun : s.status = .running) (h : step s = .next t) : s.startIn = none := by
  rcases step_cases h with ⟨_, _, hr, _⟩ | ⟨h0, _⟩
  · exact absurd hrun hr
  · exact h0

/-- The one shape that ends in Aborted is the abort. -/
theorem Shape.exists_abort (h : Shape s t) (hs : s.status ≠ .aborted) (ht : t.status = .aborted) :
    ∃ f info, f ≠ .none ∧ t = s.abort f info := by
  cases h with
  | abort f info hf => exact ⟨f, info, hf, rfl⟩
  | finish => cases ht
  | reg | jump | store | answer | wait => exact absurd ht hs

/-- A step of a Running core that ends in Aborted is the abort of the state it found, with the step counted or not. -/
theorem exists_abort_of_step (hrun : s.status = .running) (h : step s = .next t) (ht : t.status = .aborted) :
    ∃ f info, f ≠ .none ∧ (t = s.abort f info ∨ t = s.countStep.abort f info) := by
  have hs : s.status ≠ .aborted := by rw [hrun]; decide
  rcases step_answer_or_shape (startIn_eq_none_of_step hrun h) h with ⟨r, rest, rfl⟩ | hsh | hsh
  · exact absurd ht hs -- a helper's answer leaves STATUS alone
  · obtain ⟨f, info, hf, e⟩ := hsh.exists_abort hs ht
    exact ⟨f, info, hf, .inl e⟩
  · obtain ⟨f, info, hf, e⟩ := hsh.exists_abort hs ht
    exact ⟨f, info, hf, .inr e⟩

end

/-- Settles O32: the exhausted budget, and what a Ready core does once its step is counted. -/
theorem stepBudgetLimitsSteps : Obligations.StepBudgetLimitsSteps := by
  refine ⟨fun s f hrun h0 hq hf hle => ?_, fun s t hready h => (hready.shape_countStep h).steps_eq⟩
  refine ⟨_, step_of_budgetSpent hrun h0 hq (s.budgetSpent_iff.2 ⟨f, hf, hle⟩), ?_⟩
  rw [← BitVec.toNat_ofNat]
  exact abortedFrom_abort _ _ s

/-- Settles O33: the counted step and the uncounted one differ in STEPS alone. -/
theorem faultsArePrecise : Obligations.FaultsArePrecise := by
  intro s t hrun h ht
  obtain ⟨f, info, hf, rfl | rfl⟩ := exists_abort_of_step hrun h ht <;>
    exact ⟨hf, rfl, rfl, rfl, fun _ => rfl, fun _ => rfl, rfl, ⟨rfl, rfl, rfl, rfl, rfl, rfl⟩, ⟨rfl, rfl, rfl⟩⟩

/-! ### Terminations (R243, R244) -/

/-- How a run stands after instruction `i`: it goes on, it is Aborted, or `i` ended it as R243 allows. -/
inductive RunAfter (i : Instr) (s t : State) : Prop where
  | goesOn (h : t.status = s.status)
  | aborts (h : t.status = .aborted)
  | ends (hs : t.status = .terminated) (h : EndedBy i s t)

section
variable {i : Instr} {s t : State}

/-- A division by zero terminates (R103). -/
theorem runAfter_finish_zero (hd : divisorOf s i = some 0) : RunAfter i s (s.finish 0 .divideByZero) :=
  .ends rfl ⟨rfl, rfl, .inr ⟨hd, rfl, rfl⟩⟩

theorem runAfter_divide32 {f : BitVec 32 → BitVec 32 → BitVec 32} {dst : Reg} {b : BitVec 32}
    (hd : divisorOf s i = some b.toNat) (h : divide32 f dst b s = .next t) : RunAfter i s t := by
  unfold divide32 at h
  split at h
  · next hb => subst hb; cases h; exact runAfter_finish_zero hd
  · cases h; exact .goesOn rfl

theorem runAfter_divide64 {f : Word → Word → Word} {dst : Reg} {b : Word} (hd : divisorOf s i = some b.toNat)
    (h : divide64 f dst b s = .next t) : RunAfter i s t := by
  unfold divide64 at h
  split at h
  · next hb => subst hb; cases h; exact runAfter_finish_zero hd
  · cases h; exact .goesOn rfl

theorem runAfter_branch {c : Bool} {off : BitVec 16} (h : branch c off s = .next t) : RunAfter i s t := by
  cases (branch_eq c off s).symm.trans h
  exact .goesOn rfl

theorem runAfter_load {n : Nat} {dst base : Reg} {off : BitVec 16} (h : load n dst base off s = .next t) :
    RunAfter i s t := by
  rcases load_cases n dst base off s with ⟨-, e⟩ | ⟨-, -, e⟩ | ⟨-, -, e⟩ <;> cases e.symm.trans h
  · exact .aborts rfl
  · exact .aborts rfl
  · exact .goesOn rfl

theorem runAfter_store {n : Nat} {base : Reg} {off : BitVec 16} {v : Word} (h : store n base off v s = .next t) :
    RunAfter i s t := by
  rcases store_cases n base off v s with ⟨-, e⟩ | ⟨-, -, e⟩ | ⟨-, -, e⟩ <;> cases e.symm.trans h
  · exact .aborts rfl
  · exact .aborts rfl
  · exact .goesOn rfl

theorem runAfter_execCall {imm : BitVec 32} (h : execCall imm s = .next t) : RunAfter i s t := by
  rcases execCall_cases imm s with ⟨-, e⟩ | ⟨k, -, -, ⟨r, rest, -, -, e⟩ | ⟨-, e⟩⟩ <;> cases e.symm.trans h
  · exact .aborts rfl
  · exact .goesOn rfl
  · exact .goesOn rfl

/-- Every instruction leaves the run in one of the three ways. -/
theorem exec_runAfter (h : exec i s = .next t) : RunAfter i s t := by
  cases i
  case exit => cases h; exact .ends rfl ⟨rfl, rfl, .inl ⟨rfl, rfl, rfl⟩⟩
  case div32K | mod32K => exact runAfter_divide32 rfl h
  case div32X | mod32X => exact runAfter_divide32 (congrArg some (opnd32X_toNat s _).symm) h
  case divK | modK => exact runAfter_divide64 (congrArg some (opnd64K_toNat _).symm) h
  case divX | modX => exact runAfter_divide64 rfl h
  case call => exact runAfter_execCall h
  case ldxw | ldxh | ldxb | ldxdw => exact runAfter_load h
  case stw | sth | stb | stdw | stxw | stxh | stxb | stxdw => exact runAfter_store h
  case lddw | ja | add32K | add32X | sub32K | sub32X | mul32K | mul32X | or32K | or32X | and32K | and32X | lsh32K |
      lsh32X | rsh32K | rsh32X | neg32 | xor32K | xor32X | mov32K | mov32X | arsh32K | arsh32X | addK | addX | subK |
      subX | mulK | mulX | orK | orX | andK | andX | lshK | lshX | rshK | rshX | neg | xorK | xorX | movK | movX |
      arshK | arshX | le16 | le32 | le64 | be16 | be32 | be64 | le16Alu64 | le32Alu64 | le64Alu64 | be16Alu64 |
      be32Alu64 | be64Alu64 =>
    cases h; exact .goesOn rfl
  case jeqK | jeqX | jgtK | jgtX | jgeK | jgeX | jsetK | jsetX | jneK | jneX | jsgtK | jsgtX | jsgeK | jsgeX | jltK |
      jltX | jleK | jleX | jsltK | jsltX | jsleK | jsleX | jeq32K | jeq32X | jgt32K | jgt32X | jge32K | jge32X |
      jset32K | jset32X | jne32K | jne32X | jsgt32K | jsgt32X | jsge32K | jsge32X | jlt32K | jlt32X | jle32K |
      jle32X | jslt32K | jslt32X | jsle32K | jsle32X =>
    exact runAfter_branch h
  all_goals cases h; exact .aborts rfl -- the 45 aborting rows

/-- A Running core does not become Idle, and a termination is one of R243's. -/
theorem RunAfter.endedBy (h : RunAfter i s t) (hrun : s.status = .running) :
    t.status ≠ .idle ∧ (t.status = .terminated → EndedBy i s t) := by
  cases h with
  | goesOn hs => simp [hs, hrun]
  | aborts hs => simp [hs]
  | ends hs he => simp [hs, he]

/-- Counting the step changes no divisor and not `x[0]`. -/
theorem EndedBy.of_countStep (h : EndedBy i s.countStep t) : EndedBy i s t := ⟨h.fault, h.faultInfo, h.cause⟩

/-- An instruction that was fetched is what the words from the pc on decode to. -/
theorem State.decode_of_fetch (h : s.fetch = .instr i) : 0 ≤ s.pc ∧ decode (s.prog.drop s.pc.toNat) = .ok i := by
  have hin : ¬(s.pc < 0 ∨ s.prog.length ≤ s.pc) := fun hout => by cases (State.fetch_outside hout).symm.trans h
  have h0 : 0 ≤ s.pc := by omega
  have hlt : s.pc.toNat < s.prog.length := by omega
  have hsecond : s.slot (s.pc + 1) = (s.prog.drop (s.pc.toNat + 1)).head? := by
    rw [s.slot_of_nonneg (by omega), List.head?_drop, Int.toNat_add h0 (by decide)]
    rfl
  refine ⟨h0, ?_⟩
  rw [List.drop_eq_getElem_cons hlt, ← decode_cons_head?, ← hsecond]
  rw [State.fetch, s.slot_of_nonneg h0, List.getElem?_eq_getElem hlt] at h
  dsimp only at h
  split at h <;> cases h
  assumption

end

/-- Settles O34, over the instructions and then over the cases of a step. -/
theorem onlyExitAndDivisionTerminate : Obligations.OnlyExitAndDivisionTerminate := by
  refine ⟨fun i s t hrun h => (exec_runAfter h).endedBy hrun, fun s t hrun h => ?_⟩
  rcases step_cases h with ⟨_, _, hr, _⟩ |
    ⟨-, -, ⟨q, r, rest, -, -, -, rfl⟩ | ⟨-, ⟨-, rfl⟩ | ⟨-, ⟨p, -, rfl⟩ | ⟨i, hf, hi⟩⟩⟩⟩
  · exact absurd hrun hr
  · have hs : (finishCall r { s with helperRsp := rest }).status = .running := hrun
    simp [hs]
  · simp -- the budget is spent: Aborted
  · simp -- no slot at the pc: Aborted
  · obtain ⟨hidle, hend⟩ := (exec_runAfter hi).endedBy hrun
    obtain ⟨h0, hd⟩ := State.decode_of_fetch hf
    exact ⟨hidle, fun ht => ⟨h0, i, hd, (hend ht).of_countStep⟩⟩

end Sys2Proof.Machine

namespace Sys2Proof.Machine

/-! ## The start of an invocation -/

section
variable (e : StartEvent) (s : State)

/-- Where a start puts CTX and the top of the stack; every other register is 0 (R270). -/
theorem startRegs_getElem (ctx : Word) (top : Nat) (r : Reg) :
    (startRegs ctx top)[r] = if r = 1 then ctx else if r = 10 then BitVec.ofNat 64 top else 0 := by
  rcases r with ⟨n, hn⟩
  by_cases h1 : n = 1
  · subst h1; simp [startRegs]
  · by_cases h10 : n = 10
    · subst h10; simp [startRegs]
    · simp [startRegs, Fin.ext_iff, h1, h10, Ne.symm h1, Ne.symm h10]

/-- A byte of a region starts as the host fixed it last, or else as this invocation's free draw (R270, R271). -/
theorem started_byteAt {a : Nat} (h : Readable (started e s) a 1) :
    (started e s).byteAt a = lastWrite e.contents a (Config.initByte (started e s).draw a) :=
  fillMemory_find _ e.contents [] a _ ((State.admitsRead_iff _ a 1).2 h)

variable {e s}

/-- A start is accepted only in the state `started` describes. -/
theorem eq_started_of_step {t : State} (he : s.startIn = some e) (h : step s = .next t) : t = started e s := by
  rw [step_of_startIn he] at h
  exact (start_cases h).2.2

/-- With a budget, or none, that lets one step through, a started core runs. -/
theorem ready_started (hf : s.params.fuel ≠ some 0) : Ready (started e s) where
  running := rfl
  noStart := rfl
  noRequest := rfl
  budget := fun _ hfuel => Nat.pos_of_ne_zero fun h0 => hf (h0 ▸ hfuel)

/-- Of the empty program, slot 0 is already outside (R33, R275). -/
theorem fetch_started_of_empty (hp : e.prog = []) : (started e s).countStep.fetch = .outside 0 :=
  State.fetch_outside (s := (started e s).countStep) (.inr (by simp [started, hp]))

end

/-- Settles O44: the state is `started`, and the registers and the bytes have a lemma each. -/
theorem startInitializesTheInvocation : Obligations.StartInitializesTheInvocation := by
  intro s t e he h
  obtain rfl := eq_started_of_step he h
  exact ⟨startRegs_getElem _ _, rfl, rfl, rfl, rfl, rfl, rfl, rfl, rfl, rfl, rfl, rfl, rfl, rfl, rfl, rfl, rfl,
    fun _ => started_byteAt e s⟩

/-- Settles O45: the started core is Ready, and the pc 0 is outside the empty program. -/
theorem emptyProgramAbortsAtOnce : Obligations.EmptyProgramAbortsAtOnce := by
  intro s e he hr hl hp hf
  obtain ⟨u, hu, habort⟩ := (ready_started hf).step_outside (fetch_started_of_empty hp)
  exact ⟨started e s, u, (step_of_startIn he).trans (start_of_legalLayout hr hl), hu, habort⟩

end Sys2Proof.Machine
